-- ==== Sys2Proof/Word.lean ====
section
/-! DEFINITION. The byte and the axis index. -/

namespace Sys2Proof

/-- `u8`: one byte of a frame, and the width of the checksum accumulator (`00_scope.md` R10). -/
abbrev Byte := BitVec 8

/-- An axis index `k`. `NAX` is at most 32 (`10_state.md` R44), so every index the spec can name is one of
0 to 31; an index at or above `NAX` is refused where it is used (assumption 20). -/
abbrev AxisIx := Fin 32

end Sys2Proof
end

