-- ==== Sys2Proof/Syntax.lean ====
section
/-! DEFINITION. The instructions (one constructor per row of the opcode table), the host port's request, the
host's register accesses, and the moves of the agents outside the block. -/

namespace Sys2Proof

/-- The operations of the block (`00_scope.md` R2): the 25 wire commands of `30_encoding.md` R97, in table
order, then the 18 unit operations of R112. `k` is an axis index; a rational operand ranges over all of Q
(`92_eei_decisions.md` D2, assumption 3). -/
inductive Instr where
  /-- R151 -/
  | enable (k : AxisIx)
  /-- R152 -/
  | disable (k : AxisIx)
  /-- R153 -/
  | stop (k : AxisIx)
  /-- R154 -/
  | clrerr (k : AxisIx)
  /-- R155 -/
  | zero (k : AxisIx)
  /-- R156 -/
  | zero95 (k : AxisIx)
  /-- R157 -/
  | clrturn (k : AxisIx)
  /-- R158 -/
  | rdstat1 (k : AxisIx)
  /-- R159 -/
  | rdstat2 (k : AxisIx)
  /-- R160 -/
  | rdenc (k : AxisIx)
  /-- R161 -/
  | rdmtang (k : AxisIx)
  /-- R162 -/
  | rdstang (k : AxisIx)
  /-- R171: `raw` is the payload as the host supplies it, 1 to 255 bytes. -/
  | openloop (k : AxisIx) (raw : List Byte)
  /-- R172: `iq` in device current units. -/
  | torque (k : AxisIx) (iq : Rat)
  /-- R173: `w` in degrees per second. -/
  | speed (k : AxisIx) (w : Rat)
  /-- R174: `th` in degrees. -/
  | pos (k : AxisIx) (th : Rat)
  /-- R175 -/
  | posspd (k : AxisIx) (th w : Rat)
  /-- R176: `dir` 0 clockwise, 1 counter-clockwise; `ang` in degrees. -/
  | scpos (k : AxisIx) (dir : Byte) (ang : Rat)
  /-- R177 -/
  | scposspd (k : AxisIx) (dir : Byte) (ang w : Rat)
  /-- R178: `d` in degrees. -/
  | incpos (k : AxisIx) (d : Rat)
  /-- R179 -/
  | incposspd (k : AxisIx) (d w : Rat)
  /-- R220: position, velocity, the two gains, feed-forward torque. -/
  | impedance (k : AxisIx) (p v kp kd t : Rat)
  /-- R180 -/
  | paramrd (k : AxisIx) (raw : List Byte)
  /-- R181 -/
  | paramwrRam (k : AxisIx) (raw : List Byte)
  /-- R182 -/
  | paramwrRom (k : AxisIx) (raw : List Byte)
  /-- R121 -/
  | csumClr
  /-- R122 -/
  | csumAdd (b : Byte)
  /-- R123 -/
  | csumRd
  /-- R124 -/
  | csum8 (bytes : List Byte)
  /-- R130: command id, axis id, payload. -/
  | build (c a : Byte) (p : List Byte)
  /-- R132: the bytes validated are those in the host's `RXBUF`. -/
  | validate (expectedLen : Nat)
  /-- R196 -/
  | decMtang (payload : List Byte)
  /-- R197 -/
  | decStat2 (payload : List Byte)
  /-- R198 -/
  | decStang (payload : List Byte)
  /-- R211 -/
  | quant (x min max : Rat) (bits : Nat)
  /-- R217 -/
  | imppack (p v kp kd t : Rat)
  /-- R231: axis, command id, request payload, expected reply length. -/
  | transact (k : AxisIx) (c : Byte) (p : List Byte) (n : Nat)
  /-- R234 -/
  | fireforget (k : AxisIx) (c : Byte) (p : List Byte)
  /-- R240 -/
  | refresh (k : AxisIx)
  /-- R242 -/
  | isvalid (k : AxisIx)
  /-- R262 -/
  | computePd
  /-- R251 -/
  | run
  /-- R274 -/
  | cancel
deriving DecidableEq, Repr, Inhabited

/-- The operand registers of the host port (`30_encoding.md` R111): one of each type the operand column of
R112 needs. Which operation reads which is `decode`'s to say (assumption 3). -/
structure Operands where
  /-- the axis index -/
  k : AxisIx := 0
  /-- the first byte operand: `b`, `c` or `dir` -/
  u0 : Byte := 0
  /-- the second byte operand: the axis id of BUILD -/
  u1 : Byte := 0
  /-- the natural operand: a length or a bit count -/
  n : Nat := 0
  /-- the byte-string operand -/
  bs : List Byte := []
  /-- the rational operands, in the order R112 lists them -/
  q0 : Rat := 0
  q1 : Rat := 0
  q2 : Rat := 0
  q3 : Rat := 0
  q4 : Rat := 0
deriving DecidableEq, Repr, Inhabited

/-- What the host places at the command port: the operation select and the operand registers (R111, R112). -/
structure Request where
  opsel : BitVec 6
  ops : Operands := {}
deriving DecidableEq, Repr, Inhabited

/-- `MODE` (`10_state.md` R44). -/
inductive Mode where
  | pd
  | imp
deriving DecidableEq, Repr, Inhabited

/-- The error kinds (`60_exceptions.md` R290). -/
inductive ErrKind where
  | timeout
  | invalidHeader
  | checksum
  | controlPrecondition
  | transport
deriving DecidableEq, Repr, Inhabited

/-- Why an operation is refused (`60_exceptions.md` R296). A refusal is a result handed to the host; the
machine goes on (assumption 5). `badOpsel` is the model's own name for the refusal that
`93_implementation_defined.md` U14 asks for and R296 does not name (assumption 34). -/
inductive RefuseReason where
  | encodeRange
  | quantRange
  | decodeLength
  | config
  | busy
  | badOpsel
deriving DecidableEq, Repr, Inhabited

/-- The sites of an `ErrRec` (`10_state.md` R45). -/
inductive Site where
  | startupEnable
  | startupZero
  | refreshAngle
  | refreshStatus
  | compute
  | dispatch
  | shutdownDisable
deriving DecidableEq, Repr, Inhabited

/-- A register write of the host (`60_exceptions.md` R309; setpoints `10_state.md` R46; `RXBUF` R24). -/
inductive RegWrite where
  | nax (n : Nat)
  | axisId (k : AxisIx) (v : Byte)
  | chAddr (k : AxisIx) (v : Nat)
  | baud (k : AxisIx) (v : Nat)
  | kp (v : Rat)
  | kd (v : Rat)
  | limit (v : Rat)
  | period (v : Nat)
  | tRead (v : Nat)
  | mode (m : Mode)
  | required (mask : BitVec 32)
  | pDes (k : AxisIx) (v : Rat)
  | vDes (k : AxisIx) (v : Rat)
  | tFf (k : AxisIx) (v : Rat)
  | rxbuf (bytes : List Byte)
deriving DecidableEq, Repr, Inhabited

/-- A register the host can read (`10_state.md` R49, `47_sequencer.md` R279, `60_exceptions.md` R317;
assumption 32). `axisState` reads `VALID[k]` and, when it is 1, the three fields (R31). -/
inductive RegSel where
  | txbuf | rxbuf | qout | impbuf
  | axisId (k : AxisIx) | chAddr (k : AxisIx) | baud (k : AxisIx)
  | life (k : AxisIx) | axisState (k : AxisIx) | tq (k : AxisIx) | wstep (k : AxisIx)
  | pDes (k : AxisIx) | vDes (k : AxisIx) | tFf (k : AxisIx)
  | phase | ticks | tStart | tEnd | elapsed | overrun | cancel | skip
  | kp | kd | limit | period | tRead | mode | nax | required | rlog
deriving DecidableEq, Repr, Inhabited

/-- The setpoint registers of an axis (`10_state.md` R46). -/
inductive Setpoint where
  | pDes
  | vDes
  | tFf
deriving DecidableEq, Repr, Inhabited

/-- A move of one agent (`10_state.md` R20; assumption 1). -/
inductive Event where
  /-- the host places an operation at the command port and starts it -/
  | request (r : Request)
  /-- the host writes a register -/
  | write (w : RegWrite)
  /-- the host reads a register -/
  | read (r : RegSel)
  /-- remote device `k` sends bytes, which arrive in `RXQ[k]` (`20_memory.md` R66) -/
  | device (k : AxisIx) (bytes : List Byte)
  /-- time passes, by `dt` unless a read in progress ends first (`60_exceptions.md` R313, `46_session.md` R233) -/
  | time (dt : Nat)
  /-- worker `k` takes a step, if it is alive and enabled -/
  | worker (k : AxisIx)
  /-- worker `k` samples one setpoint register ahead of its command, if it is alive and has one pending in mode IMP
  (`20_memory.md` R82(5); assumption 38) -/
  | sample (k : AxisIx) (r : Setpoint)
  /-- the sequencer takes a step, if it is enabled -/
  | sequencer
deriving DecidableEq, Repr, Inhabited

/-- What the channel does at its next primitive, and what the rest of the world does meanwhile (`20_memory.md` R64,
R65, R66; assumptions 6, 30). -/
structure LinkDraw where
  /-- for a write: `none`, it succeeds; `some j`, it fails after sending at most `j` bytes -/
  sent : Option Nat := none
  /-- for a read: it fails with `TransportError` -/
  readFails : Bool := false
  /-- the bytes that arrive on the primitive's own channel: for a write, between the discard before it and its end;
  for a read of a host operation, while it waits -/
  arrive : List Byte := []
  /-- for a host operation: the bytes that arrive on the other channels while the primitive runs -/
  others : List (AxisIx × List Byte) := []
  /-- for a host operation: the time the primitive takes (a read: at most `T_READ`, `46_session.md` R233) -/
  dt : Nat := 0
deriving DecidableEq, Repr, Inhabited

end Sys2Proof
end

