-- ==== Sys2Proof/Config.lean ====
section
/-! DEFINITION. The open parameters of `00_scope.md` R8 and the draws of R14. A constant declared `opaque` has
no body: nothing can be proved of its value, so a claim holds for every value of it. -/

namespace Sys2Proof

/-- The values of `SCALE_ROUND` (`92_eei_decisions.md` D3). -/
inductive ScaleRound where
  | trunc
  | floor
  | nearestEven
  | nearestUp
deriving DecidableEq, Repr, Inhabited

/-- The values of `QROUND_TIE` (`92_eei_decisions.md` D4). -/
inductive QRoundTie where
  | halfEven
  | halfUp
deriving DecidableEq, Repr, Inhabited

/-- The values of `IMP_LAYOUT` (`92_eei_decisions.md` D7). -/
inductive ImpLayout where
  | lePacked
  | beMit
deriving DecidableEq, Repr, Inhabited

/-- The values of `ZERO_CMD` (`92_eei_decisions.md` D23). -/
inductive ZeroCmd where
  | zero19
  | zero95
deriving DecidableEq, Repr, Inhabited

/-- `SCALE_ROUND`: open (D3; assumption 14). -/
opaque Config.scaleRound : ScaleRound

/-- `QROUND_TIE`: open (D4; assumption 14). -/
opaque Config.qroundTie : QRoundTie

/-- `REPLY_LEN[c]` of the command ids whose reply length is not derived: open (D12; assumption 15). -/
opaque Config.openReplyLen : Byte → Nat

/-- `IMP_LAYOUT`: the layout the spec decides (D7, R218; assumption 16). -/
def Config.impLayout : ImpLayout := .lePacked

/-- `ZERO_CMD`: an argument of the model, 0x19 unless the block is configured with 0x95 (`10_state.md` R21, D23, R254;
assumption 16). -/
opaque Config.zeroCmd : ZeroCmd

/-- What a host read of `ELAPSED` gives inside a tick, when `T_START` is newer than `T_END` and their difference is no
natural number: the spec states no value (R37, R317), so it is free, a function of `T_START`, `T_END` and `NOW`
(assumption 39). -/
opaque Config.elapsedInTick : Nat → Nat → Nat → Nat

/-- The agents' moves past the end of `EVENTS`: a draw (assumption 1). -/
opaque Config.nextEvent : Nat → Event

/-- How many moves of any agents may come before the next agent of the block has its turn: a draw, so that no move is
put off for ever and none is promised by any bound (`70_reset_and_hazards.md` R347, R346; assumption 41). -/
opaque Config.slack : Nat → Nat

/-- What the channels do past the end of `LINKS`: a draw (assumptions 1, 30). -/
opaque Config.nextLink : Nat → LinkDraw

/-- The site of the `ErrRec` that a FIREFORGET started by the host appends: R234 states none, so it is a free
value, one for each place in `RLOG` (assumption 17). -/
opaque Config.hostSite : Nat → Site

end Sys2Proof
end

