-- ==== Sys2Proof/Machine/Bytes.lean ====
section
/-! DEFINITION. Byte order and two's complement (`00_scope.md` R10, R11; `20_memory.md` R68, R70). -/

namespace Sys2Proof.Machine

/-- `LE_(8n)(v)`: the `n` bytes of `v`, least significant first (R11). -/
def leBytes : Nat → Nat → List Byte
  | 0, _ => []
  | n + 1, v => BitVec.ofNat 8 v :: leBytes n (v / 256)

/-- The little-endian number a byte sequence spells: `sum bs[i] * 256^i` (R11, R70). -/
def leNat : List Byte → Nat
  | [] => 0
  | b :: bs => b.toNat + 256 * leNat bs

/-- `MemRead(buf, off, n)` (R11). -/
def memRead (buf : List Byte) (off n : Nat) : Nat :=
  leNat ((buf.drop off).take n)

/-- `MemWrite(buf, off, n, v)` (R11). -/
def memWrite (buf : List Byte) (off n v : Nat) : List Byte :=
  buf.take off ++ leBytes n v ++ buf.drop (off + n)

/-- `to_uN(z) = z mod 2^N` (R10). -/
def toUnsigned (bits : Nat) (z : Int) : Nat :=
  (z % (2 ^ bits : Nat)).toNat

/-- An integer that lies in `bits` bits, as `bits / 8` bytes: `LE_N(to_uN(z))` (R99). -/
def leInt (n : Nat) (z : Int) : List Byte :=
  leBytes n (toUnsigned (8 * n) z)

end Sys2Proof.Machine
end

