-- ==== Sys2Proof/Machine/Codec.lean ====
section
/-! DEFINITION. The checksum-8 adder, the frame serializer and the frame deserializer, in the functional form and
in the streaming form (`40_checksum.md`, `41_frame_codec.md`, `30_encoding.md` R90 to R95). -/

namespace Sys2Proof.Machine

/-- One step of the adder: the carry out of bit 7 is dropped (R120, R122). -/
def csumAdd (acc b : Byte) : Byte := acc + b

/-- `CSUM8(s)`: one `CSUM.ADD` per byte from 0 (R124). -/
def csum8 (s : List Byte) : Byte := s.foldl csumAdd 0

/-- The marker byte (R91). -/
def marker : Byte := 0x3E

/-- The four header bytes the header checksum covers (R91, R130). -/
def headerBytes (c a : Byte) (n : Nat) : List Byte := [marker, c, a, BitVec.ofNat 8 n]

/-- The data section: absent for an empty payload, else payload and payload checksum (R90, R92). -/
def dataSection (p : List Byte) : List Byte :=
  if p.length = 0 then [] else p ++ [csum8 p]

/-- `BUILD c, a, p` as a function of its operands (R130). -/
def buildFrame (c a : Byte) (p : List Byte) : Except RefuseReason (List Byte) :=
  if 255 < p.length then .error .encodeRange
  else if a.toNat < 1 ∨ 32 < a.toNat then .error .encodeRange
  else
    let h := headerBytes c a p.length
    .ok (h ++ [csum8 h] ++ dataSection p)

/-- `VALIDATE raw, expected_len` as a function of its operands: three checks, in this order (R132). -/
def validateFrame (raw : List Byte) (expectedLen : Nat) : Except ErrKind (List Byte) :=
  if raw.length ≠ expectedLen then .error .timeout
  else if raw[0]? ≠ some marker then .error .invalidHeader
  else if 5 < expectedLen then
    let data := (raw.drop 5).take (expectedLen - 6)
    if raw[expectedLen - 1]? ≠ some (csum8 data) then .error .checksum else .ok data
  else .ok []

/-- `SIDX` and `ACC_S` of one codec instance (`10_state.md` R23). -/
structure Stream where
  sidx : Nat := 0
  accS : Byte := 0
deriving DecidableEq, Repr, Inhabited

/-- One serializer step of R141: the byte emitted at `SIDX`, and the registers after it. -/
def serStep (c a : Byte) (p : List Byte) (st : Stream) : Byte × Stream :=
  match st.sidx with
  | 0 => (marker, ⟨1, csumAdd 0 marker⟩)
  | 1 => (c, ⟨2, csumAdd st.accS c⟩)
  | 2 => (a, ⟨3, csumAdd st.accS a⟩)
  | 3 => (BitVec.ofNat 8 p.length, ⟨4, csumAdd st.accS (BitVec.ofNat 8 p.length)⟩)
  | 4 => (st.accS, ⟨5, 0⟩)
  | i + 5 =>
    match p[i]? with
    | some b => (b, ⟨i + 6, csumAdd st.accS b⟩)
    | none => (st.accS, ⟨i + 6, st.accS⟩)

/-- The serializer run for `fuel` bytes. -/
def serRun (c a : Byte) (p : List Byte) : Nat → Stream → List Byte × Stream
  | 0, st => ([], st)
  | fuel + 1, st =>
    let r := serStep c a p st
    let rest := serRun c a p fuel r.2
    (r.1 :: rest.1, rest.2)

/-- The length of the frame of a payload of `n` bytes (R93). -/
def frameLen (n : Nat) : Nat := if n = 0 then 5 else n + 6

/-- The whole streaming serializer: `SIDX` starts at 0 and the frame ends where R141 says. -/
def serialize (c a : Byte) (p : List Byte) : List Byte × Stream :=
  serRun c a p (frameLen p.length) {}

/-- The deserializer between two bytes: its registers, the payload output, and the error verdict once there is
one (R143). -/
structure Des where
  st : Stream := {}
  payload : List Byte := []
  verdict : Option ErrKind := none
deriving DecidableEq, Repr, Inhabited

/-- One deserializer step of R143 over the next byte, for a frame of `n` bytes. -/
def desStep (n : Nat) (d : Des) (b : Byte) : Des :=
  match d.verdict with
  | some _ => d
  | none =>
    if d.st.sidx = 0 then
      if b = marker then { d with st := ⟨1, d.st.accS⟩ } else { d with verdict := some .invalidHeader }
    else if d.st.sidx < 5 then { d with st := ⟨d.st.sidx + 1, d.st.accS⟩ }
    else
      let acc := if d.st.sidx = 5 then 0 else d.st.accS
      if d.st.sidx + 1 = n then
        if b = acc then { d with st := ⟨d.st.sidx + 1, acc⟩ }
        else { d with st := ⟨d.st.sidx, acc⟩, verdict := some .checksum }
      else { d with st := ⟨d.st.sidx + 1, csumAdd acc b⟩, payload := d.payload ++ [b] }

/-- The deserializer over the bytes handed to it, when `len(raw) = n` (R143). For `n` above 261 `SIDX` runs on to `n`,
beyond the range of `10_state.md` R23, which bounds neither the operand `n` of TRANSACT nor `REPLY_LEN`: DESIGN CHOICE
(assumptions 11, 23). -/
def desRun (raw : List Byte) (n : Nat) : Des :=
  if raw.length = n then raw.foldl (desStep n) {} else { verdict := some .timeout }

/-- The verdict of the streaming form: the payload is delivered only with it (R144). -/
def deserialize (raw : List Byte) (n : Nat) : Except ErrKind (List Byte) :=
  match (desRun raw n).verdict with
  | some e => .error e
  | none => .ok (desRun raw n).payload

/-- The registers of one FSER / FDES instance (`10_state.md` R23, R24). -/
structure Codec where
  st : Stream := {}
  txbuf : List Byte := []
  rxbuf : List Byte := []
deriving DecidableEq, Repr, Inhabited

/-- BUILD on one codec instance: the frame goes to `TXBUF`; a refusal leaves the instance as it was (R130). The
stream registers end as the streaming form leaves them (assumption 11). -/
def Codec.build (cd : Codec) (c a : Byte) (p : List Byte) : Except RefuseReason Codec :=
  match buildFrame c a p with
  | .error r => .error r
  | .ok f => .ok { cd with txbuf := f, st := (serialize c a p).2 }

/-- VALIDATE on one codec instance: `RXBUF` holds the bytes handed to it (R24, R132). -/
def Codec.validate (cd : Codec) (raw : List Byte) (n : Nat) : Except ErrKind (List Byte) × Codec :=
  (validateFrame raw n, { cd with rxbuf := raw, st := (desRun raw n).st })

end Sys2Proof.Machine
end

