-- ==== Sys2Proof/Machine/Operands.lean ====
section
/-! DEFINITION. Operand assembly: rounding, clamping, scaled integers, the payload of every scalar command, and
the reply lengths (`00_scope.md` R15; `30_encoding.md` R97 to R102; `43_cmd_scalar.md`). -/

namespace Sys2Proof.Machine

/-- `floor(q)` (R15). -/
def floorQ (q : Rat) : Int := q.num / (q.den : Int)

/-- `trunc(q)`: toward zero (R15). -/
def truncQ (q : Rat) : Int := q.num.tdiv (q.den : Int)

/-- `nearest_up(q)`: a tie goes toward plus infinity (R15). -/
def nearestUpQ (q : Rat) : Int := floorQ (q + 1 / 2)

/-- `nearest_even(q)`: a tie goes to the even integer (R15). -/
def nearestEvenQ (q : Rat) : Int :=
  let f := floorQ q
  let frac := q - (f : Rat)
  if frac < 1 / 2 then f
  else if 1 / 2 < frac then f + 1
  else if f % 2 = 0 then f
  else f + 1

/-- `clamp(x, lo, hi)` (R15). -/
def clampQ (x lo hi : Rat) : Rat :=
  if x < lo then lo else if hi < x then hi else x

/-- `ToInt` under one value of `SCALE_ROUND` (R15). -/
def toIntBy : ScaleRound → Rat → Int
  | .trunc, q => truncQ q
  | .floor, q => floorQ q
  | .nearestEven, q => nearestEvenQ q
  | .nearestUp, q => nearestUpQ q

/-- `ToInt` (R15). -/
def toInt (q : Rat) : Int := toIntBy Config.scaleRound q

/-- `QRound` under one value of `QROUND_TIE` (R15). -/
def qroundBy : QRoundTie → Rat → Int
  | .halfEven, q => nearestEvenQ q
  | .halfUp, q => nearestUpQ q

/-- `ScaleInt(x, s, T)` under one value of `SCALE_ROUND`, `T` the integers from `lo` to `hi` in `n` bytes (R99). -/
def scaleIntBy (r : ScaleRound) (x s : Rat) (lo hi : Int) (n : Nat) : Except RefuseReason (List Byte) :=
  let z := toIntBy r (x * s)
  if z < lo ∨ hi < z then .error .encodeRange else .ok (leInt n z)

/-- `ScaleInt(x, 100, i32)`: speeds and increments (R99). -/
def scaleI32By (r : ScaleRound) (x : Rat) : Except RefuseReason (List Byte) :=
  scaleIntBy r x 100 (-2147483648) 2147483647 4

/-- `ScaleInt(x, 100, i64)`: multi-turn positions (R99). -/
def scaleI64By (r : ScaleRound) (x : Rat) : Except RefuseReason (List Byte) :=
  scaleIntBy r x 100 (-9223372036854775808) 9223372036854775807 8

/-- `ScaleInt(x, 100, u16)`: single-circle angles (R99). -/
def scaleU16By (r : ScaleRound) (x : Rat) : Except RefuseReason (List Byte) :=
  scaleIntBy r x 100 0 65535 2

/-- The concatenation of two payload parts, the first first; refused if either part is (R102, R175). -/
def joinPayload (a b : Except RefuseReason (List Byte)) : Except RefuseReason (List Byte) :=
  match a with
  | .error e => .error e
  | .ok pa =>
    match b with
    | .error e => .error e
    | .ok pb => .ok (pa ++ pb)

/-- The payload of TORQUE: clamp, then convert (R100, R172). -/
def torquePayloadBy (r : ScaleRound) (iq : Rat) : List Byte :=
  leInt 2 (toIntBy r (clampQ iq (-2047) 2047))

/-- The payload of SCPOS: direction, angle, reserved byte 0 (R101, R176). -/
def singleCirclePayloadBy (r : ScaleRound) (dir : Byte) (ang : Rat) : Except RefuseReason (List Byte) :=
  if dir ≠ 0 ∧ dir ≠ 1 then .error .encodeRange
  else
    match scaleU16By r ang with
    | .error e => .error e
    | .ok a => .ok (dir :: (a ++ [0]))

/-- The payload of TORQUE (R172). -/
def torquePayload (iq : Rat) : List Byte := torquePayloadBy Config.scaleRound iq

/-- The payload of SPEED (R173). -/
def speedPayload (w : Rat) : Except RefuseReason (List Byte) := scaleI32By Config.scaleRound w

/-- The payload of POS (R174). -/
def posPayload (th : Rat) : Except RefuseReason (List Byte) := scaleI64By Config.scaleRound th

/-- The payload of POSSPD (R175). -/
def posspdPayload (th w : Rat) : Except RefuseReason (List Byte) :=
  joinPayload (posPayload th) (speedPayload w)

/-- The payload of SCPOS (R176). -/
def scposPayload (dir : Byte) (ang : Rat) : Except RefuseReason (List Byte) :=
  singleCirclePayloadBy Config.scaleRound dir ang

/-- The payload of SCPOSSPD (R177). -/
def scposspdPayload (dir : Byte) (ang w : Rat) : Except RefuseReason (List Byte) :=
  joinPayload (scposPayload dir ang) (speedPayload w)

/-- The payload of INCPOS (R178). -/
def incposPayload (d : Rat) : Except RefuseReason (List Byte) := scaleI32By Config.scaleRound d

/-- The payload of INCPOSSPD (R179). -/
def incposspdPayload (d w : Rat) : Except RefuseReason (List Byte) :=
  joinPayload (incposPayload d) (speedPayload w)

/-- The payload of OPENLOOP: opaque, at least one byte (R171; assumption 19). -/
def openloopPayload (raw : List Byte) : Except RefuseReason (List Byte) :=
  if raw.length = 0 then .error .encodeRange else .ok raw

/-- `REPLY_LEN[c]` for the commands that are sent by TRANSACT (R97; `00_scope.md` R8; `92_eei_decisions.md` D12). -/
def replyLen (c : Byte) : Nat :=
  if c = 0x92 then 14
  else if c = 0x9C then 13
  else if c = 0x94 then 10
  else Config.openReplyLen c

/-- The command id byte of `ZERO_CMD` (R254). -/
def zeroCmdId : Byte :=
  match Config.zeroCmd with
  | .zero19 => 0x19
  | .zero95 => 0x95

end Sys2Proof.Machine
end

