-- ==== Sys2Proof/Machine/Quantizer.lean ====
section
/-! DEFINITION. The fixed-point quantizer and the impedance payload (`45_quantizer.md`). -/

namespace Sys2Proof.Machine

/-- The exact value QUANT rounds (R211). -/
def quantExact (x mn mx : Rat) (bits : Nat) : Rat :=
  (clampQ x mn mx - mn) * ((2 ^ bits - 1 : Nat) : Rat) / (mx - mn)

/-- QUANT on operands inside its sense, under one tie rule (R211). -/
def quantBy (tie : QRoundTie) (x mn mx : Rat) (bits : Nat) : Nat :=
  (qroundBy tie (quantExact x mn mx bits)).toNat

/-- QUANT with its two refusals (R211). -/
def quantChecked (x mn mx : Rat) (bits : Nat) : Except RefuseReason Nat :=
  if ¬ mn < mx then .error .quantRange
  else if bits < 1 ∨ 16 < bits then .error .quantRange
  else .ok (quantBy Config.qroundTie x mn mx bits)

/-- `DEQUANT`, exact, for tests and claims only (R214). -/
def dequant (r : Nat) (mn mx : Rat) (bits : Nat) : Rat :=
  mn + (r : Rat) * (mx - mn) / ((2 ^ bits - 1 : Nat) : Rat)

/-- The five quantized fields of the impedance payload (R215). -/
structure ImpFields where
  p : BitVec 16
  v : BitVec 12
  kp : BitVec 12
  kd : BitVec 12
  t : BitVec 12
deriving DecidableEq, Repr, Inhabited

/-- The field quantization (R216). -/
def impFieldsBy (tie : QRoundTie) (p v kp kd t : Rat) : ImpFields where
  p := BitVec.ofNat 16 (quantBy tie p (-360) 360 16)
  v := BitVec.ofNat 12 (quantBy tie v (-2000) 2000 12)
  kp := BitVec.ofNat 12 (quantBy tie kp 0 500 12)
  kd := BitVec.ofNat 12 (quantBy tie kd 0 5 12)
  t := BitVec.ofNat 12 (quantBy tie t (-33) 33 12)

/-- The 64-bit word of `le_packed` (R218). -/
def impWord (f : ImpFields) : Nat :=
  f.p.toNat + f.v.toNat * 2 ^ 16 + f.kp.toNat * 2 ^ 28 + f.kd.toNat * 2 ^ 40 + f.t.toNat * 2 ^ 52

/-- `Pack_IMP_LAYOUT` (R218, R219). -/
def packBy (layout : ImpLayout) (f : ImpFields) : List Byte :=
  match layout with
  | .lePacked => leBytes 8 (impWord f)
  | .beMit =>
    [ f.p.extractLsb' 8 8, f.p.extractLsb' 0 8,
      f.v.extractLsb' 4 8, f.v.extractLsb' 0 4 ++ f.kp.extractLsb' 8 4,
      f.kp.extractLsb' 0 8, f.kd.extractLsb' 4 8,
      f.kd.extractLsb' 0 4 ++ f.t.extractLsb' 8 4, f.t.extractLsb' 0 8 ]

/-- The unpacking of `le_packed`, for tests and claims only (R222). -/
def unpackLe (pl : List Byte) : ImpFields :=
  let w := memRead pl 0 8
  { p := BitVec.ofNat 16 w
    v := BitVec.ofNat 12 (w / 2 ^ 16)
    kp := BitVec.ofNat 12 (w / 2 ^ 28)
    kd := BitVec.ofNat 12 (w / 2 ^ 40)
    t := BitVec.ofNat 12 (w / 2 ^ 52) }

/-- The payload of IMPPACK (R217). -/
def impPayload (p v kp kd t : Rat) : List Byte :=
  packBy Config.impLayout (impFieldsBy Config.qroundTie p v kp kd t)

end Sys2Proof.Machine
end

