-- ==== Sys2Proof/Decode.lean ====
section
/-! DEFINITION. The two encodings of the spec: the operation select of the host port (`30_encoding.md` R112) and the
frames on the wire (R90 to R107, R113). Decoding is total and rejects by name; the encoders follow it. -/

namespace Sys2Proof

open Machine

/-- Why a host request decodes to no instruction (`93_implementation_defined.md` U14). -/
inductive DecodeError where
  | unknownOpsel (code : BitVec 6)
deriving DecidableEq, Repr, Inhabited

/-- The instruction a host request starts: OPSEL selects the row of R112, and the row's operands stand in the
operand registers. -/
def decode (r : Request) : Except DecodeError Instr :=
  match r.opsel.toNat with
  | 0x00 => .ok (.csumClr)
  | 0x01 => .ok (.csumAdd r.ops.u0)
  | 0x02 => .ok (.csumRd)
  | 0x03 => .ok (.csum8 r.ops.bs)
  | 0x04 => .ok (.build r.ops.u0 r.ops.u1 r.ops.bs)
  | 0x05 => .ok (.validate r.ops.n)
  | 0x08 => .ok (.decMtang r.ops.bs)
  | 0x09 => .ok (.decStat2 r.ops.bs)
  | 0x0A => .ok (.decStang r.ops.bs)
  | 0x0C => .ok (.quant r.ops.q0 r.ops.q1 r.ops.q2 r.ops.n)
  | 0x0D => .ok (.imppack r.ops.q0 r.ops.q1 r.ops.q2 r.ops.q3 r.ops.q4)
  | 0x10 => .ok (.transact r.ops.k r.ops.u0 r.ops.bs r.ops.n)
  | 0x11 => .ok (.fireforget r.ops.k r.ops.u0 r.ops.bs)
  | 0x12 => .ok (.refresh r.ops.k)
  | 0x13 => .ok (.isvalid r.ops.k)
  | 0x14 => .ok (.computePd)
  | 0x18 => .ok (.run)
  | 0x19 => .ok (.cancel)
  | 0x20 => .ok (.enable r.ops.k)
  | 0x21 => .ok (.disable r.ops.k)
  | 0x22 => .ok (.stop r.ops.k)
  | 0x23 => .ok (.clrerr r.ops.k)
  | 0x24 => .ok (.zero r.ops.k)
  | 0x25 => .ok (.zero95 r.ops.k)
  | 0x26 => .ok (.clrturn r.ops.k)
  | 0x27 => .ok (.rdstat1 r.ops.k)
  | 0x28 => .ok (.rdstat2 r.ops.k)
  | 0x29 => .ok (.rdenc r.ops.k)
  | 0x2A => .ok (.rdmtang r.ops.k)
  | 0x2B => .ok (.rdstang r.ops.k)
  | 0x2C => .ok (.openloop r.ops.k r.ops.bs)
  | 0x2D => .ok (.torque r.ops.k r.ops.q0)
  | 0x2E => .ok (.speed r.ops.k r.ops.q0)
  | 0x2F => .ok (.pos r.ops.k r.ops.q0)
  | 0x30 => .ok (.posspd r.ops.k r.ops.q0 r.ops.q1)
  | 0x31 => .ok (.scpos r.ops.k r.ops.u0 r.ops.q0)
  | 0x32 => .ok (.scposspd r.ops.k r.ops.u0 r.ops.q0 r.ops.q1)
  | 0x33 => .ok (.incpos r.ops.k r.ops.q0)
  | 0x34 => .ok (.incposspd r.ops.k r.ops.q0 r.ops.q1)
  | 0x35 => .ok (.impedance r.ops.k r.ops.q0 r.ops.q1 r.ops.q2 r.ops.q3 r.ops.q4)
  | 0x36 => .ok (.paramrd r.ops.k r.ops.bs)
  | 0x37 => .ok (.paramwrRam r.ops.k r.ops.bs)
  | 0x38 => .ok (.paramwrRom r.ops.k r.ops.bs)
  | _ => .error (.unknownOpsel r.opsel)

/-- The request that starts an instruction: its OPSEL, its operands in their registers, and every operand
register it does not use at zero (R112). -/
def encode : Instr → Request
  | .csumClr => ⟨0x00, {}⟩
  | .csumAdd u0 => ⟨0x01, { u0 := u0 }⟩
  | .csumRd => ⟨0x02, {}⟩
  | .csum8 bs => ⟨0x03, { bs := bs }⟩
  | .build u0 u1 bs => ⟨0x04, { u0 := u0, u1 := u1, bs := bs }⟩
  | .validate n => ⟨0x05, { n := n }⟩
  | .decMtang bs => ⟨0x08, { bs := bs }⟩
  | .decStat2 bs => ⟨0x09, { bs := bs }⟩
  | .decStang bs => ⟨0x0A, { bs := bs }⟩
  | .quant q0 q1 q2 n => ⟨0x0C, { q0 := q0, q1 := q1, q2 := q2, n := n }⟩
  | .imppack q0 q1 q2 q3 q4 => ⟨0x0D, { q0 := q0, q1 := q1, q2 := q2, q3 := q3, q4 := q4 }⟩
  | .transact k u0 bs n => ⟨0x10, { k := k, u0 := u0, bs := bs, n := n }⟩
  | .fireforget k u0 bs => ⟨0x11, { k := k, u0 := u0, bs := bs }⟩
  | .refresh k => ⟨0x12, { k := k }⟩
  | .isvalid k => ⟨0x13, { k := k }⟩
  | .computePd => ⟨0x14, {}⟩
  | .run => ⟨0x18, {}⟩
  | .cancel => ⟨0x19, {}⟩
  | .enable k => ⟨0x20, { k := k }⟩
  | .disable k => ⟨0x21, { k := k }⟩
  | .stop k => ⟨0x22, { k := k }⟩
  | .clrerr k => ⟨0x23, { k := k }⟩
  | .zero k => ⟨0x24, { k := k }⟩
  | .zero95 k => ⟨0x25, { k := k }⟩
  | .clrturn k => ⟨0x26, { k := k }⟩
  | .rdstat1 k => ⟨0x27, { k := k }⟩
  | .rdstat2 k => ⟨0x28, { k := k }⟩
  | .rdenc k => ⟨0x29, { k := k }⟩
  | .rdmtang k => ⟨0x2A, { k := k }⟩
  | .rdstang k => ⟨0x2B, { k := k }⟩
  | .openloop k bs => ⟨0x2C, { k := k, bs := bs }⟩
  | .torque k q0 => ⟨0x2D, { k := k, q0 := q0 }⟩
  | .speed k q0 => ⟨0x2E, { k := k, q0 := q0 }⟩
  | .pos k q0 => ⟨0x2F, { k := k, q0 := q0 }⟩
  | .posspd k q0 q1 => ⟨0x30, { k := k, q0 := q0, q1 := q1 }⟩
  | .scpos k u0 q0 => ⟨0x31, { k := k, u0 := u0, q0 := q0 }⟩
  | .scposspd k u0 q0 q1 => ⟨0x32, { k := k, u0 := u0, q0 := q0, q1 := q1 }⟩
  | .incpos k q0 => ⟨0x33, { k := k, q0 := q0 }⟩
  | .incposspd k q0 q1 => ⟨0x34, { k := k, q0 := q0, q1 := q1 }⟩
  | .impedance k q0 q1 q2 q3 q4 => ⟨0x35, { k := k, q0 := q0, q1 := q1, q2 := q2, q3 := q3, q4 := q4 }⟩
  | .paramrd k bs => ⟨0x36, { k := k, bs := bs }⟩
  | .paramwrRam k bs => ⟨0x37, { k := k, bs := bs }⟩
  | .paramwrRom k bs => ⟨0x38, { k := k, bs := bs }⟩

/-- The `format` column of a wire-command row (R90, R113). -/
inductive FrameFormat where
  | f0
  | fp
  /-- `F0|FP`: the payload may be empty -/
  | any
deriving DecidableEq, Repr, Inhabited

/-- Whether a row of this format has frames whose length byte is `n` (R91, R92). -/
def FrameFormat.admits (f : FrameFormat) (n : Nat) : Bool :=
  match f with
  | .f0 => n == 0
  | .fp => n != 0
  | .any => true

/-- A wire-command row of the opcode table: its format, the header word it matches (frame bytes 0 to 3, byte 0 the
most significant), the mask, and the encode selector (R113). -/
structure WireRow where
  mnemonic : String
  format : FrameFormat
  word : BitVec 32
  mask : BitVec 32
  opsel : BitVec 6
deriving DecidableEq, Repr, Inhabited

/-- The wire-command rows, in table order (R97, R113). -/
def wireTable : List WireRow :=
  [ ⟨"ENABLE", .f0, 0x3E880000, 0xFFFF00FF, 0x20⟩,
    ⟨"DISABLE", .f0, 0x3E800000, 0xFFFF00FF, 0x21⟩,
    ⟨"STOP", .f0, 0x3E810000, 0xFFFF00FF, 0x22⟩,
    ⟨"CLRERR", .f0, 0x3E9B0000, 0xFFFF00FF, 0x23⟩,
    ⟨"ZERO", .f0, 0x3E190000, 0xFFFF00FF, 0x24⟩,
    ⟨"ZERO95", .f0, 0x3E950000, 0xFFFF00FF, 0x25⟩,
    ⟨"CLRTURN", .f0, 0x3E930000, 0xFFFF00FF, 0x26⟩,
    ⟨"RDSTAT1", .f0, 0x3E9A0000, 0xFFFF00FF, 0x27⟩,
    ⟨"RDSTAT2", .f0, 0x3E9C0000, 0xFFFF00FF, 0x28⟩,
    ⟨"RDENC", .f0, 0x3E900000, 0xFFFF00FF, 0x29⟩,
    ⟨"RDMTANG", .f0, 0x3E920000, 0xFFFF00FF, 0x2A⟩,
    ⟨"RDSTANG", .f0, 0x3E940000, 0xFFFF00FF, 0x2B⟩,
    ⟨"OPENLOOP", .fp, 0x3EA00000, 0xFFFF0000, 0x2C⟩,
    ⟨"TORQUE", .fp, 0x3EA10002, 0xFFFF00FF, 0x2D⟩,
    ⟨"SPEED", .fp, 0x3EA20004, 0xFFFF00FF, 0x2E⟩,
    ⟨"POS", .fp, 0x3EA30008, 0xFFFF00FF, 0x2F⟩,
    ⟨"POSSPD", .fp, 0x3EA4000C, 0xFFFF00FF, 0x30⟩,
    ⟨"SCPOS", .fp, 0x3EA50004, 0xFFFF00FF, 0x31⟩,
    ⟨"SCPOSSPD", .fp, 0x3EA60008, 0xFFFF00FF, 0x32⟩,
    ⟨"INCPOS", .fp, 0x3EA70004, 0xFFFF00FF, 0x33⟩,
    ⟨"INCPOSSPD", .fp, 0x3EA80008, 0xFFFF00FF, 0x34⟩,
    ⟨"IMPEDANCE", .fp, 0x3EA80008, 0xFFFF00FF, 0x35⟩,
    ⟨"PARAMRD", .any, 0x3E400000, 0xFFFF0000, 0x36⟩,
    ⟨"PARAMWR_RAM", .any, 0x3E420000, 0xFFFF0000, 0x37⟩,
    ⟨"PARAMWR_ROM", .any, 0x3E440000, 0xFFFF0000, 0x38⟩ ]

/-- The word frame bytes 0 to 3 form, byte 0 the most significant (R113). -/
def headerWord (b0 b1 b2 b3 : Byte) : BitVec 32 := b0 ++ b1 ++ b2 ++ b3

/-- The rows a header word matches: at most one, but for the two rows of `0xA8` (R98, R113). -/
def rowsOfHeader (h : BitVec 32) : List WireRow :=
  wireTable.filter fun row => h &&& row.mask == row.word

/-- The rows a frame with this header can be: those its header word matches whose format has its length byte (R113). -/
def rowsOfFrame (h : BitVec 32) : List WireRow :=
  (rowsOfHeader h).filter fun row => row.format.admits (h.extractLsb' 0 8).toNat

/-- Why a byte string is no frame of the block. -/
inductive FrameError where
  /-- fewer than the five header bytes -/
  | tooShort
  /-- byte 0 is not `0x3E` -/
  | badMarker
  /-- byte 4 is not the sum of bytes 0 to 3 -/
  | badHeaderChecksum
  /-- byte 2 is not 1 to 32 -/
  | badAxis
  /-- no row has this command id with this length byte (R105) -/
  | unknownCommand
  /-- no row of this command id has frames without a payload (R113) -/
  | badFormat
  /-- the frame does not have the length byte 3 gives it (R93) -/
  | badLength
  /-- the last byte is not the sum of the payload -/
  | badPayloadChecksum
deriving DecidableEq, Repr, Inhabited

/-- What a frame says: the selectors of the rows it can be (two for `0xA8`, R98), its axis id, its payload. -/
structure FrameView where
  opsels : List (BitVec 6)
  axis : Byte
  payload : List Byte
deriving DecidableEq, Repr, Inhabited

/-- The data section of a frame whose length byte is `n`: the payload, once length and checksum are right
(R92, R93). -/
def decodeData (n : Nat) (rest : List Byte) : Except FrameError (List Byte) :=
  if n = 0 then (if rest = [] then .ok [] else .error .badLength)
  else if rest.length ≠ n + 1 then .error .badLength
  else if rest[n]? ≠ some (csum8 (rest.take n)) then .error .badPayloadChecksum
  else .ok (rest.take n)

/-- A frame read as an observer of the wire reads it: every byte is checked against R91 to R93 and the table
(R98, R113). The block itself checks less of what it receives (`41_frame_codec.md` R134). -/
def decodeFrame : List Byte → Except FrameError FrameView
  | b0 :: b1 :: b2 :: b3 :: b4 :: rest =>
    if b0 ≠ marker then .error .badMarker
    else if b4 ≠ csum8 [b0, b1, b2, b3] then .error .badHeaderChecksum
    else if b2.toNat < 1 ∨ 32 < b2.toNat then .error .badAxis
    else if rowsOfHeader (headerWord b0 b1 b2 b3) = [] then .error .unknownCommand
    else if rowsOfFrame (headerWord b0 b1 b2 b3) = [] then .error .badFormat
    else
      match decodeData b3.toNat rest with
      | .error e => .error e
      | .ok p => .ok ⟨(rowsOfFrame (headerWord b0 b1 b2 b3)).map WireRow.opsel, b2, p⟩
  | _ => .error .tooShort

/-- The command id and the payload of a wire command (R97, R99 to R103); `none` for a unit operation. -/
def Instr.wire? : Instr → Option (Byte × Except RefuseReason (List Byte))
  | .enable _ => some (0x88, .ok [])
  | .disable _ => some (0x80, .ok [])
  | .stop _ => some (0x81, .ok [])
  | .clrerr _ => some (0x9B, .ok [])
  | .zero _ => some (0x19, .ok [])
  | .zero95 _ => some (0x95, .ok [])
  | .clrturn _ => some (0x93, .ok [])
  | .rdstat1 _ => some (0x9A, .ok [])
  | .rdstat2 _ => some (0x9C, .ok [])
  | .rdenc _ => some (0x90, .ok [])
  | .rdmtang _ => some (0x92, .ok [])
  | .rdstang _ => some (0x94, .ok [])
  | .openloop _ raw => some (0xA0, openloopPayload raw)
  | .torque _ iq => some (0xA1, .ok (torquePayload iq))
  | .speed _ w => some (0xA2, speedPayload w)
  | .pos _ th => some (0xA3, posPayload th)
  | .posspd _ th w => some (0xA4, posspdPayload th w)
  | .scpos _ dir ang => some (0xA5, scposPayload dir ang)
  | .scposspd _ dir ang w => some (0xA6, scposspdPayload dir ang w)
  | .incpos _ d => some (0xA7, incposPayload d)
  | .incposspd _ d w => some (0xA8, incposspdPayload d w)
  | .impedance _ p v kp kd t => some (0xA8, .ok (impPayload p v kp kd t))
  | .paramrd _ raw => some (0x40, .ok raw)
  | .paramwrRam _ raw => some (0x42, .ok raw)
  | .paramwrRom _ raw => some (0x44, .ok raw)
  | .csumClr | .csumAdd _ | .csumRd | .csum8 _ | .build _ _ _ | .validate _ => none
  | .decMtang _ | .decStat2 _ | .decStang _ | .quant _ _ _ _ | .imppack _ _ _ _ _ => none
  | .transact _ _ _ _ | .fireforget _ _ _ | .refresh _ | .isvalid _ => none
  | .computePd | .run | .cancel => none

/-- The frame of a wire command for axis id `a` (R90 to R92); `none` for a unit operation, and a refusal where
the operands have no encoding. -/
def encodeFrame (a : Byte) (i : Instr) : Option (Except RefuseReason (List Byte)) :=
  match i.wire? with
  | none => none
  | some (_, .error r) => some (.error r)
  | some (c, .ok p) => some (buildFrame c a p)

/-- The requests a word of the opcode table can stand for, the operand registers at zero: a word of at most 8 bits is
an OPSEL; a longer one is the header word of a frame, and every row it matches gives its encode selector: two for the
word of `0xA8` (R98, R113). -/
def requestsOfWord (nbits w : Nat) : List Request :=
  if nbits ≤ 8 then
    if w < 64 then [⟨BitVec.ofNat 6 w, {}⟩] else []
  else if w < 2 ^ 32 then (rowsOfHeader (BitVec.ofNat 32 w)).map fun row => ⟨row.opsel, {}⟩
  else []

/-- The request the port is given for a word: the first it can stand for (assumption 4). -/
def requestOfWord (nbits w : Nat) : Option Request := (requestsOfWord nbits w).head?

/-- The instruction of a request, if there is one. -/
def decodeOne (r : Request) : Option Instr :=
  match decode r with
  | .ok i => some i
  | .error _ => none

/-- Every instruction a word of the opcode table can stand for, every operand zero (R98, R113). -/
def decodeTableRows (nbits w : Nat) : List Instr := (requestsOfWord nbits w).filterMap decodeOne

/-- The instruction the port runs for a word of the opcode table: the first of `decodeTableRows` (assumption 4). -/
def decodeTableWord (nbits w : Nat) : Option Instr :=
  match requestOfWord nbits w with
  | none => none
  | some r => decodeOne r

end Sys2Proof
end

