-- ==== Sys2Proof/Machine/Decoders.lean ====
section
/-! DEFINITION. The response decoders (`44_decoders.md`). A payload of another length has no decoding; the
operation is then refused (R195). -/

namespace Sys2Proof.Machine

/-- A count of hundredths as an exact rational (R196, R197, R198). -/
def hundredths (z : Int) : Rat := (z : Rat) / 100

/-- The angle of DEC.MTANG: an `i64` (R196). -/
def decMtang (pl : List Byte) : Option (BitVec 64) :=
  if pl.length = 8 then some (BitVec.ofNat 64 (memRead pl 0 8)) else none

/-- The record of DEC.STAT2 (R197). -/
structure Stat2 where
  temp : BitVec 8
  cur : BitVec 16
  spd : BitVec 16
  enc : BitVec 16
deriving DecidableEq, Repr, Inhabited

/-- DEC.STAT2: offsets 0, 1, 3, 5 (R197). -/
def decStat2 (pl : List Byte) : Option Stat2 :=
  if pl.length = 7 then
    some
      { temp := BitVec.ofNat 8 (memRead pl 0 1)
        cur := BitVec.ofNat 16 (memRead pl 1 2)
        spd := BitVec.ofNat 16 (memRead pl 3 2)
        enc := BitVec.ofNat 16 (memRead pl 5 2) }
  else none

/-- The angle of DEC.STANG: a `u32`, not sign-extended (R198). -/
def decStang (pl : List Byte) : Option (BitVec 32) :=
  if pl.length = 4 then some (BitVec.ofNat 32 (memRead pl 0 4)) else none

end Sys2Proof.Machine
end

