-- ==== Sys2Proof/Machine/State.lean ====
section
/-! DEFINITION. Every piece of state the spec gives the block (`10_state.md`, `30_encoding.md` R111,
`60_exceptions.md` R313), plus the few registers it implies, and the state after reset. -/

namespace Sys2Proof.Machine

/-- `PHASE` (`10_state.md` R34). -/
inductive Phase where
  | idle
  | startup
  | tickStart
  | refresh
  | check
  | compute
  | dispatch
  | timing
  | sleep
  | between
  | shutdown
  | halted
deriving DecidableEq, Repr, Inhabited

/-- `LIFE[k]` (`10_state.md` R27). -/
inductive Life where
  | disabled
  | enabled
  | zeroed
  | running
deriving DecidableEq, Repr, Inhabited

/-- `WSTEP[k]` (`10_state.md` R35): `W_T1`, `W_T2`, `W_CMD`, `W_DONE`. -/
inductive WStep where
  | t1
  | t2
  | cmd
  | done
deriving DecidableEq, Repr, Inhabited

/-- Which of an axis's two startup transactions is next (`47_sequencer.md` R252 to R254). -/
inductive StartStep where
  | enable
  | zero
deriving DecidableEq, Repr, Inhabited

/-- A record of `RLOG` (`10_state.md` R45). -/
inductive Report where
  | err (tick : Nat) (axis : AxisIx) (site : Site) (kind : ErrKind)
  | skip (tick : Nat)
  | overrun (tick elapsed : Nat)
deriving DecidableEq, Repr, Inhabited

/-- The value an operation or a register read hands to the host (R111, R112). -/
inductive Value where
  /-- no value -/
  | unit
  | byte (b : Byte)
  | bytes (s : List Byte)
  | bit (b : Bool)
  | nat (n : Nat)
  | rat (q : Rat)
  /-- QOUT -/
  | word (w : BitVec 16)
  | mask (m : BitVec 32)
  /-- a register that may be unset -/
  | optByte (b : Option Byte)
  | optNat (n : Option Nat)
  | optRat (q : Option Rat)
  /-- DEC.MTANG: the `i64` and the degrees (R196) -/
  | angle64 (raw : BitVec 64) (deg : Rat)
  /-- DEC.STANG: the `u32` and the degrees (R198) -/
  | angle32 (raw : BitVec 32) (deg : Rat)
  /-- DEC.STAT2 (R197) -/
  | stat2 (r : Stat2)
  /-- COMPUTE.PD: `TQ[0]`, `TQ[1]` (R264) -/
  | torques (t0 t1 : Rat)
  /-- `VALID[k] = 1` with the three fields, or `none`: `VALID[k] = 0` with no data (`10_state.md` R31) -/
  | axisState (data : Option (BitVec 64 × BitVec 16 × BitVec 16))
  | life (l : Life)
  | phase (p : Phase)
  | wstep (w : WStep)
  | mode (m : Mode)
  | log (r : List Report)
deriving DecidableEq, Repr, Inhabited

/-- The result register of the host port (R111; `00_scope.md` R14). `none` until the first operation. -/
inductive Result where
  | none
  | ok (v : Value)
  | err (e : ErrKind)
  | refused (r : RefuseReason)
deriving DecidableEq, Repr, Inhabited

/-- The setpoints a worker has sampled in its dispatch step so far (`20_memory.md` R82(5); assumption 38). -/
structure Samples where
  p : Option Rat := none
  v : Option Rat := none
  t : Option Rat := none
deriving DecidableEq, Repr, Inhabited

/-- The registers of one axis (`10_state.md` R26 to R35, R46, R48) with its codec instance (R23). -/
structure Axis where
  /-- `AXIS_ID[k]`; `none` is unset (R26) -/
  axisId : Option Byte := none
  /-- `CH_ADDR[k]` (R48; assumption 12) -/
  chAddr : Option Nat := none
  /-- `BAUD[k]` (R48; assumption 12) -/
  baud : Option Nat := none
  /-- `LIFE[k]` (R27) -/
  life : Life := .disabled
  /-- `POS[k]`, an `i64` of hundredths of a degree (R28) -/
  pos : Option (BitVec 64) := none
  /-- `VEL[k]`, an `i16` of hundredths of a degree per second (R29) -/
  vel : Option (BitVec 16) := none
  /-- `TRQ[k]`, an `i16` (R30) -/
  trq : Option (BitVec 16) := none
  /-- `RXQ[k]`, head first (R32) -/
  rxq : List Byte := []
  /-- `TXH[k]`, oldest first (R32) -/
  txh : List Byte := []
  /-- `TQ[k]` (R33) -/
  tq : Option Rat := none
  /-- `WSTEP[k]` (R35) -/
  wstep : WStep := .done
  /-- `P_DES[k]` (R46) -/
  pDes : Rat := 0
  /-- `V_DES[k]` (R46) -/
  vDes : Rat := 0
  /-- `T_FF[k]` (R46) -/
  tFf : Rat := 0
  /-- the setpoints the worker has sampled ahead of its command (`20_memory.md` R82(5); assumption 38) -/
  smp : Samples := {}
  /-- the axis's codec instance (R23, R24) -/
  codec : Codec := {}
  /-- the call time of the read in progress on this channel, by a worker or the sequencer (R65, R313; assumption 7) -/
  wait : Option Nat := none
  /-- the angle of the first refresh transaction, held until the group update (R240; assumption 7) -/
  held : BitVec 64 := 0
deriving DecidableEq, Repr, Inhabited

/-- The host command port (R111). -/
structure Port where
  /-- `OPSEL` -/
  opsel : BitVec 6 := 0
  /-- the operand registers -/
  ops : Operands := {}
  /-- an operation has been placed and not yet run (assumption 37) -/
  start : Bool := false
  /-- the result register -/
  result : Result := .none
deriving DecidableEq, Repr, Inhabited

/-- The state of the block. -/
structure State where
  /-- `ACC` (`10_state.md` R22) -/
  acc : Byte := 0
  /-- the host port's codec instance: host `TXBUF`, `RXBUF` (R23, R24) -/
  host : Codec := {}
  /-- `QOUT` (R25) -/
  qout : BitVec 16 := 0
  /-- `IMPBUF`, 8 bytes (R25) -/
  impbuf : List Byte := List.replicate 8 0
  /-- the per-axis registers -/
  axes : Vector Axis 32 := Vector.replicate 32 {}
  /-- `PHASE` (R34) -/
  phase : Phase := .idle
  /-- `TICKS` (R36) -/
  ticks : Nat := 0
  /-- `T_START` (R37; reset value: assumption 9) -/
  tStart : Nat := 0
  /-- `T_END` (R37; reset value: assumption 9) -/
  tEnd : Nat := 0
  /-- `OVERRUN` (R38) -/
  overrun : Bool := false
  /-- `CANCEL` (R39) -/
  cancel : Bool := false
  /-- `SKIP` (R40) -/
  skip : Bool := false
  /-- `KP` (R41) -/
  kp : Option Rat := none
  /-- `KD` (R41) -/
  kd : Option Rat := none
  /-- `LIMIT` (R42) -/
  limit : Option Rat := none
  /-- `PERIOD` (R43) -/
  period : Option Nat := none
  /-- `T_READ` (R43) -/
  tRead : Option Nat := none
  /-- `MODE` (R44) -/
  mode : Mode := .pd
  /-- `NAX` (R44) -/
  nax : Option Nat := none
  /-- `RLOG`, oldest first (R45) -/
  rlog : List Report := []
  /-- `REQUIRED`: bit `k` is axis `k` (R47) -/
  required : BitVec 32 := BitVec.allOnes 32
  /-- `NOW` (`60_exceptions.md` R313; reset value: assumption 9) -/
  now : Nat := 0
  /-- the axis `Startup` or `Shutdown` is at (R252, R278; assumption 8) -/
  seqAxis : Nat := 0
  /-- the startup transaction that is next (R252 to R254; assumption 8) -/
  seqStep : StartStep := .enable
  /-- the host command port (R111) -/
  port : Port := {}
  /-- the agents' moves still to come (assumption 1) -/
  events : List Event := []
  /-- the place in the round of the block's own agents and time: which of them has its turn next
  (`70_reset_and_hazards.md` R347; assumption 41) -/
  turn : Fin 34 := 0
  /-- how many moves of any agents may still come before that turn (assumption 41) -/
  slack : Nat := 0
  /-- the channel draws still to come (assumption 30) -/
  links : List LinkDraw := []
  /-- how many draws were taken from the opaque constants (assumption 1) -/
  drawn : Nat := 0
deriving DecidableEq, Repr, Inhabited

/-- Why the machine stops. -/
inductive Fault where
  /-- Raised by a step of the sequencer or of a worker that needs a register which RUN has checked (R251) and
  finds it unset or illegal. `60_exceptions.md` R296 says this cannot arise; no run reaches it. Safe: the model
  stops where the spec says nothing (assumption 29). -/
  | configLost
deriving DecidableEq, Repr, Inhabited

/-- Why an instruction has no outcome at all. A refusal the spec describes is not one of these: it is a result
at the port (assumption 5). -/
inductive Refusal where
  /-- Raised by `exec` alone, for an instruction that has no meaning yet. Safe: nothing is claimed of it. -/
  | notModelled (mnemonic : String)
deriving DecidableEq, Repr, Inhabited

/-- The machine right after reset (`10_state.md` R51, `70_reset_and_hazards.md` R330): every field at its reset
value, which stands beside it above. -/
def State.reset : State := {}

end Sys2Proof.Machine
end

