-- ==== Sys2Proof/Machine/Access.lean ====
section
/-! DEFINITION. The one place where per-axis registers are read and written (`00_scope.md` R12). -/

namespace Sys2Proof.Machine

/-- The registers of axis `k`. -/
def State.axis (s : State) (k : AxisIx) : Axis := s.axes[k]

/-- Replaces the registers of axis `k`. -/
def State.setAxis (s : State) (k : AxisIx) (a : Axis) : State := { s with axes := s.axes.set k a }

/-- Writes some registers of axis `k`, as one indivisible update (R12). -/
def State.modAxis (s : State) (k : AxisIx) (f : Axis → Axis) : State := s.setAxis k (f (s.axis k))

/-- Axis `k` exists: `k < NAX` (`10_state.md` R44). -/
def State.active (s : State) (k : AxisIx) : Bool :=
  match s.nax with
  | some n => k.val < n
  | none => false

/-- The register file whose axis `k` is `g k`. -/
def tabulate (g : AxisIx → Axis) : Vector Axis 32 := ⟨(List.ofFn g).toArray, by simp⟩

/-- Writes some registers of every axis `k < NAX`, as one update (`10_state.md` R12, "for every k"). -/
def State.modActive (s : State) (f : Axis → Axis) : State :=
  { s with axes := tabulate fun k => if s.active k then f (s.axis k) else s.axis k }

/-- Every axis `k < NAX` satisfies a test. -/
def State.allActive (s : State) (p : Axis → Bool) : Bool :=
  (List.finRange 32).all fun k => !s.active k || p (s.axis k)

/-- The axis id that an operation of the host on axis `k` sends with: `AXIS_ID[k]`, unless `NAX` says that there is
no axis `k` (R26, R44; assumption 20). -/
def State.usableId (s : State) (k : AxisIx) : Option Byte :=
  match s.nax with
  | none => (s.axis k).axisId
  | some n => if k.val < n then (s.axis k).axisId else none

end Sys2Proof.Machine
end

