-- ==== Sys2Proof/Machine/Flags.lean ====
section
/-! DEFINITION. The one-bit conditions of the block: `VALID[k]`, `SKIP`, `OVERRUN`, the phase window, the barrier,
and what RUN checks. No operation has arithmetic flags (`40_checksum.md` R120). -/

namespace Sys2Proof.Machine

/-- The three fields of AxisState when all are populated (`10_state.md` R31). -/
def Axis.data (a : Axis) : Option (BitVec 64 × BitVec 16 × BitVec 16) :=
  match a.pos, a.vel, a.trq with
  | some p, some v, some t => some (p, v, t)
  | _, _, _ => none

/-- `VALID[k]` (`10_state.md` R31, `46_session.md` R242). -/
def Axis.valid (a : Axis) : Bool := a.data.isSome

/-- `PHASE` is neither `Idle` nor `Halted` (`60_exceptions.md` R300, R309). -/
def State.busy (s : State) : Bool := s.phase != .idle && s.phase != .halted

/-- `ELAPSED`: the difference of the two stamps, once the tick has ended (`10_state.md` R37, `47_sequencer.md` R271).
Before that the difference may be no natural number: what a host read then gives is `elapsedRead`. -/
def State.elapsed (s : State) : Nat := s.tEnd - s.tStart

/-- What `Check` puts in `SKIP`: a required axis is invalid (`47_sequencer.md` R260). -/
def State.skipNeeded (s : State) : Bool :=
  (List.finRange 32).any fun k => s.active k && s.required.getLsbD k.val && !(s.axis k).valid

/-- What `Timing` puts in `OVERRUN`; equality counts (`47_sequencer.md` R271). -/
def overrunFlag (elapsed period : Nat) : Bool := period ≤ elapsed

/-- The barrier: every `WSTEP[k]` is `W_DONE` (`10_state.md` R35; `47_sequencer.md` R259, R270). -/
def State.barrierPassed (s : State) : Bool := s.allActive fun a => a.wstep == .done

/-- What RUN requires of the configuration (`47_sequencer.md` R251). -/
def State.configured (s : State) : Bool :=
  s.nax.isSome && s.allActive (fun a => a.axisId.isSome) && s.kp.isSome && s.kd.isSome && s.limit.isSome
    && s.period.isSome && s.tRead.isSome && (s.mode != .pd || s.nax == some 2)

end Sys2Proof.Machine
end

