-- ==== Sys2Proof/Machine/Ops.lean ====
section
/-! DEFINITION. The shared operations over State: the port's result, the report log, the draws, the channel
primitives, the session's transaction, the group update of AxisState, and the catchers of errors. -/

namespace Sys2Proof.Machine

/-- What a meaning, or a move of an agent, answers: Host/Core.lean's three outcomes. -/
abbrev Step := Host.Outcome State Fault Refusal

/-! ### Results, reports, draws -/

/-- Hands a result to the host (`30_encoding.md` R111). -/
def State.answer (s : State) (r : Result) : State := { s with port := { s.port with result := r } }

/-- `report(rec)` (`00_scope.md` R14; `10_state.md` R45). -/
def State.report (s : State) (r : Report) : State := { s with rlog := s.rlog ++ [r] }

/-- The round in which the agents of the block and time have their turns: the workers, the sequencer, and time, which then
passes by 1 (`10_state.md` R20; `70_reset_and_hazards.md` R347; assumption 41). -/
def turnMove (t : Fin 34) : Event :=
  if h : t.val < 32 then .worker ⟨t.val, h⟩
  else if t.val = 32 then .sequencer
  else .time 1

/-- The agent whose turn it is moves; how many moves may come before the next turn is drawn (assumption 41). -/
def State.takeTurn (s : State) : Event × State :=
  (turnMove s.turn, { s with turn := s.turn + 1, slack := Config.slack s.drawn, drawn := s.drawn + 1 })

/-- A move of any agent, as the list or else a draw has it (assumption 1). -/
def State.takeEvent (s : State) : Event × State :=
  match s.events with
  | e :: es => (e, { s with events := es })
  | [] => (Config.nextEvent s.drawn, { s with drawn := s.drawn + 1 })

/-- The next move of an agent, and the state with it taken: any agent's, but for the turns in which an agent of the block
moves at the latest, so that none waits for ever (R347; assumptions 1, 41). -/
def State.drawEvent (s : State) : Event × State :=
  match s.slack with
  | 0 => s.takeTurn
  | n + 1 => { s with slack := n }.takeEvent

/-- The next channel draw, and the state with it taken (assumption 30). -/
def State.drawLink (s : State) : LinkDraw × State :=
  match s.links with
  | d :: ds => (d, { s with links := ds })
  | [] => (Config.nextLink s.drawn, { s with drawn := s.drawn + 1 })

/-! ### The channel (`20_memory.md` R63 to R66) -/

/-- `ChDiscard(k)` (R63). -/
def chDiscard (s : State) (k : AxisIx) : State := s.modAxis k fun a => { a with rxq := [] }

/-- Bytes of remote device `k` arrive (R66). -/
def chArrive (s : State) (k : AxisIx) (bytes : List Byte) : State :=
  s.modAxis k fun a => { a with rxq := a.rxq ++ bytes }

/-- What `ChWrite` sends under a draw: all of `f`, or, when it fails, a leading part (R64). -/
def sentPart (d : LinkDraw) (f : List Byte) : List Byte :=
  match d.sent with
  | none => f
  | some j => f.take j

/-- `ChWrite(k, f)`, with the draw it was decided by; the bytes of the draw arrive on channel `k` between the discard
before it and its end (R63, R64, R66). -/
def chWrite (s : State) (k : AxisIx) (f : List Byte) : LinkDraw × State :=
  let (d, s1) := s.drawLink
  (d, (chArrive s1 k d.arrive).modAxis k fun a => { a with txh := a.txh ++ sentPart d f })

/-- Bytes arrive on channels other than `k` (R66). -/
def chElsewhere (s : State) (k : AxisIx) : List (AxisIx × List Byte) → State
  | [] => s
  | x :: xs => chElsewhere (if x.1 = k then s else chArrive s x.1 x.2) k xs

/-- What happens outside channel `k` while a primitive of a host operation runs on it: bytes arrive on the other
channels and time passes (R66, R313; assumption 6). -/
def chMeanwhile (s : State) (k : AxisIx) (d : LinkDraw) : State :=
  { chElsewhere s k d.others with now := s.now + d.dt }

/-- How much of `dt` can pass before a read in progress on one of the channels `ks` has lasted `T`. -/
def State.withinReads (s : State) (T : Nat) : List AxisIx → Nat → Nat
  | [], dt => dt
  | k :: ks, dt =>
    match (s.axis k).wait with
    | none => s.withinReads T ks dt
    | some since => s.withinReads T ks (min dt (since + T - s.now))

/-- Time passes, but not past the instant at which a read in progress has lasted `T_READ`: the read ends then at the latest
(R65; `46_session.md` R233, `70_reset_and_hazards.md` R346, `60_exceptions.md` R313). -/
def State.passTime (s : State) (dt : Nat) : State :=
  { s with
    now := s.now +
      (match s.tRead with
      | none => dt
      | some T => s.withinReads T (List.finRange 32) dt) }

/-! ### The session's transaction (`46_session.md` R231) -/

/-- How the first half of a transaction ended; a write was tried under the draw `d`. -/
inductive Sent where
  | refused (r : RefuseReason)
  | failed (d : LinkDraw)
  | sent (d : LinkDraw)
deriving DecidableEq, Repr, Inhabited

/-- How a transaction ended. -/
inductive Reply where
  | refused (r : RefuseReason)
  | err (e : ErrKind)
  | ok (payload : List Byte)
deriving DecidableEq, Repr, Inhabited

/-- Steps 1 to 3 of TRANSACT: discard, build in the axis's codec instance, write (R231). The discard happens even
when BUILD then refuses (R232(h); assumption 25). -/
def request (s : State) (k : AxisIx) (c : Byte) (p : List Byte) : Sent × State :=
  match (s.axis k).axisId with
  | none => (.refused .config, s)
  | some a =>
    let s1 := chDiscard s k
    match (s1.axis k).codec.build c a p with
    | .error r => (.refused r, s1)
    | .ok cd =>
      let (d, s2) := chWrite (s1.modAxis k fun ax => { ax with codec := cd }) k cd.txbuf
      if d.sent.isNone then (.sent d, s2) else (.failed d, s2)

/-- The end of step 5 and step 6 of TRANSACT: at most `n` bytes leave the head of `RXQ[k]` and are validated in
the axis's codec instance (R65, R231). -/
def collect (s : State) (k : AxisIx) (n : Nat) : Reply × State :=
  let raw := (s.axis k).rxq.take n
  let r := (s.axis k).codec.validate raw n
  let s1 := s.modAxis k fun a => { a with rxq := a.rxq.drop n, codec := r.2 }
  match r.1 with
  | .ok p => (.ok p, s1)
  | .error e => (.err e, s1)

/-- What a wait of the host on channel `k` lets happen: bytes arrive on every channel and time passes (R65, R66, R313). -/
def chPass (s : State) (k : AxisIx) (d : LinkDraw) : State := chMeanwhile (chArrive s k d.arrive) k d

/-- The wait lasts at least until time `t` (R313). -/
def State.waitUntil (s : State) (t : Nat) : State := { s with now := max s.now t }

/-- Step 5 of TRANSACT for an operation of the host, which waits inside the operation: bytes arrive and time
passes by a draw, at most `T_READ`; if the bytes do not suffice, exactly `T_READ` has passed since the call (R65, R233, R313;
assumption 6). -/
def hostRead (s : State) (k : AxisIx) (n tRead : Nat) : Reply × State :=
  let (d, s1) := s.drawLink
  let s2 := chPass s1 k { d with dt := min d.dt tRead }
  if d.readFails then (.err .transport, s2)
  else if (s2.axis k).rxq.length < n then collect (s2.waitUntil (s.now + tRead)) k n
  else collect s2 k n

/-- TRANSACT as one operation of the host (R231). -/
def hostTransact (s : State) (k : AxisIx) (c : Byte) (p : List Byte) (n : Nat) : Reply × State :=
  match request s k c p with
  | (.refused r, s1) => (.refused r, s1)
  | (.failed d, s1) => (.err .transport, chMeanwhile s1 k d)
  | (.sent d, s1) =>
    let s2 := chMeanwhile s1 k d
    if n = 0 then (.ok [], s2)
    else
      match s2.tRead with
      | none => (.refused .config, s2)
      | some t => hostRead s2 k n t

/-- FIREFORGET as one operation of the host: TRANSACT without a reply, whose error is caught and reported with tick 0
(R234); the first component is a refusal. -/
def hostFireForget (s : State) (k : AxisIx) (c : Byte) (p : List Byte) (site : Site) : Option RefuseReason × State :=
  match hostTransact s k c p 0 with
  | (.refused r, s1) => (some r, s1)
  | (.err e, s1) => (none, s1.report (.err 0 k site e))
  | (.ok _, s1) => (none, s1)

/-- Step 5 of TRANSACT for a worker or the sequencer, which is called again until the read ends: `none` while
neither `n` bytes have arrived nor `T_READ` has passed since the call (R65, R313; assumption 7). Time does not pass `T_READ`
while the read is in progress (`State.passTime`, R233). -/
def agentRead (s : State) (k : AxisIx) (n since : Nat) : Option Reply × State :=
  let (d, s1) := s.drawLink
  let s2 := s1.modAxis k fun a => { a with wait := none }
  if d.readFails then (some (.err .transport), s2)
  else if n ≤ (s1.axis k).rxq.length then
    let r := collect s2 k n
    (some r.1, r.2)
  else
    match s1.tRead with
    | none => (some (.refused .config), s1)
    | some t =>
      if since + t ≤ s1.now then
        let r := collect s2 k n
        (some r.1, r.2)
      else (none, s1)

/-- One move of a worker's or the sequencer's TRANSACT on channel `k`: the request, or one look at the reply.
`none` means that the read is in progress (R231; assumption 7). -/
def agentTransact (s : State) (k : AxisIx) (c : Byte) (p : List Byte) (n : Nat) : Option Reply × State :=
  match (s.axis k).wait with
  | some since => agentRead s k n since
  | none =>
    match request s k c p with
    | (.refused r, s1) => (some (.refused r), s1)
    | (.failed _, s1) => (some (.err .transport), s1)
    | (.sent _, s1) =>
      if n = 0 then (some (.ok []), s1)
      else (none, s1.modAxis k fun a => { a with wait := some s1.now })

/-- FIREFORGET of a worker, one move: TRANSACT without a reply, whose `TransportError` is caught and reported with
site `Dispatch` (R234). -/
def fireForget (s : State) (k : AxisIx) (c : Byte) (p : List Byte) : Option RefuseReason × State :=
  match request s k c p with
  | (.refused r, s1) => (some r, s1)
  | (.failed _, s1) => (none, s1.report (.err s.ticks k .dispatch .transport))
  | (.sent _, s1) => (none, s1)

/-! ### AxisState and the catcher of REFRESH (`46_session.md` R240) -/

/-- The group update: all three fields are set or cleared together (`20_memory.md` R74(a)). -/
def State.setGroup (s : State) (k : AxisIx) (g : Option (BitVec 64 × BitVec 16 × BitVec 16)) : State :=
  s.modAxis k fun a =>
    { a with pos := g.map fun x => x.1, vel := g.map fun x => x.2.1, trq := g.map fun x => x.2.2 }

/-- `fail(site, E)` of REFRESH: clear the three fields, one report, no error to the caller (R240, R241). -/
def refreshFail (s : State) (k : AxisIx) (site : Site) (e : ErrKind) : State :=
  (s.setGroup k none).report (.err s.ticks k site e)

/-- The success of REFRESH: angle, speed and current are kept, temperature and encoder dropped (R200, R240). -/
def refreshDone (s : State) (k : AxisIx) (raw : BitVec 64) (r : Stat2) : State :=
  s.setGroup k (some (raw, r.spd, r.cur))

/-! ### Operations of the host port -/

/-- The encode operation of a wire command: the payload is framed with `AXIS_ID[k]` into the host's `TXBUF`
(`42_cmd_actions_reads.md` R150, `43_cmd_scalar.md` R170; order of the refusals: assumption 20). -/
def encodeWire (s : State) (k : AxisIx) (c : Byte) (pl : Except RefuseReason (List Byte)) : State :=
  match s.usableId k with
  | none => s.answer (.refused .config)
  | some a =>
    match pl with
    | .error r => s.answer (.refused r)
    | .ok p =>
      match s.host.build c a p with
      | .error r => s.answer (.refused r)
      | .ok cd => { s with host := cd }.answer (.ok (.bytes cd.txbuf))

/-- The checks before an operation of the host uses channel `k`: the phase, then the configuration
(`60_exceptions.md` R300; `70_reset_and_hazards.md` R332). `n` is the expected reply length. -/
def State.channelRefusal (s : State) (k : AxisIx) (n : Nat) : Option RefuseReason :=
  if s.busy then some .busy
  else if s.usableId k = none then some .config
  else if 0 < n ∧ s.tRead = none then some .config
  else none

end Sys2Proof.Machine
end

