-- ==== Sys2Proof/Machine/HostPort.lean ====
section
/-! DEFINITION. The host's register writes and register reads (`60_exceptions.md` R300, R309; `10_state.md` R46, R49). -/

namespace Sys2Proof.Machine

/-- A configuration write: only in `Idle` and `Halted`, and only of a legal value; otherwise the register keeps its
value (R309). -/
def configWrite (s : State) (legal : Bool) (written : State) : State :=
  if s.busy then s.answer (.refused .busy)
  else if !legal then s.answer (.refused .config)
  else written.answer (.ok .unit)

/-- The register writes of the host. Setpoints and `RXBUF` are written in every phase (R46, R300; assumptions 22,
23, 33). Each write hands over a result of its own, `ok` or the refusal, which replaces the port's last result: R300
counts the configuration writes among the unit operations and the setpoint writes among the operations, R111 gives
operations a result, and for the filling of `RXBUF` the spec says nothing: DESIGN CHOICE (assumption 40). -/
def hostWrite (w : RegWrite) (s : State) : State :=
  match w with
  | .nax n => configWrite s (1 ≤ n && n ≤ 32) { s with nax := some n }
  | .axisId k v =>
    configWrite s (1 ≤ v.toNat && v.toNat ≤ 32) (s.modAxis k fun a => { a with axisId := some v })
  | .chAddr k v => configWrite s true (s.modAxis k fun a => { a with chAddr := some v })
  | .baud k v => configWrite s true (s.modAxis k fun a => { a with baud := some v })
  | .kp v => configWrite s true { s with kp := some v }
  | .kd v => configWrite s true { s with kd := some v }
  | .limit v => configWrite s (0 ≤ v) { s with limit := some v }
  | .period v => configWrite s (1 ≤ v) { s with period := some v }
  | .tRead v => configWrite s (1 ≤ v) { s with tRead := some v }
  | .mode m => configWrite s true { s with mode := m }
  | .required m => configWrite s true { s with required := m }
  | .pDes k v => (s.modAxis k fun a => { a with pDes := v }).answer (.ok .unit)
  | .vDes k v => (s.modAxis k fun a => { a with vDes := v }).answer (.ok .unit)
  | .tFf k v => (s.modAxis k fun a => { a with tFf := v }).answer (.ok .unit)
  | .rxbuf bytes =>
    if 261 < bytes.length then s.answer (.refused .config)
    else { s with host := { s.host with rxbuf := bytes } }.answer (.ok .unit)

/-- What a host read of `ELAPSED` gives: `T_END - T_START`, or, inside a tick that began after the last `Timing`, a free
value, for which the spec states nothing: DESIGN CHOICE (R37, R317; assumption 39). -/
def State.elapsedRead (s : State) : Nat :=
  if s.tStart ≤ s.tEnd then s.elapsed else Config.elapsedInTick s.tStart s.tEnd s.now

/-- The value a register read hands to the host (R49; `10_state.md` R31; assumption 32). -/
def regValue (r : RegSel) (s : State) : Value :=
  match r with
  | .txbuf => .bytes s.host.txbuf
  | .rxbuf => .bytes s.host.rxbuf
  | .qout => .word s.qout
  | .impbuf => .bytes s.impbuf
  | .axisId k => .optByte (s.axis k).axisId
  | .chAddr k => .optNat (s.axis k).chAddr
  | .baud k => .optNat (s.axis k).baud
  | .life k => .life (s.axis k).life
  | .axisState k => .axisState (s.axis k).data
  | .tq k => .optRat (s.axis k).tq
  | .wstep k => .wstep (s.axis k).wstep
  | .pDes k => .rat (s.axis k).pDes
  | .vDes k => .rat (s.axis k).vDes
  | .tFf k => .rat (s.axis k).tFf
  | .phase => .phase s.phase
  | .ticks => .nat s.ticks
  | .tStart => .nat s.tStart
  | .tEnd => .nat s.tEnd
  | .elapsed => .nat s.elapsedRead
  | .overrun => .bit s.overrun
  | .cancel => .bit s.cancel
  | .skip => .bit s.skip
  | .kp => .optRat s.kp
  | .kd => .optRat s.kd
  | .limit => .optRat s.limit
  | .period => .optNat s.period
  | .tRead => .optNat s.tRead
  | .mode => .mode s.mode
  | .nax => .optNat s.nax
  | .required => .mask s.required
  | .rlog => .log s.rlog

/-- A register read: no side effect but the result handed over (`20_memory.md` R75, R300). -/
def hostReadReg (r : RegSel) (s : State) : State := s.answer (.ok (regValue r s))

end Sys2Proof.Machine
end

