-- ==== Sys2Proof/Machine/ControlLaw.lean ====
section
/-! DEFINITION. The symmetric PD mirroring law and its preconditions (`47_sequencer.md` R262 to R264). -/

namespace Sys2Proof.Machine

/-- The unclipped torque of an axis from its own position and velocity and its pair's (R263). -/
def pdTorque (kp kd : Rat) (own pair : BitVec 64 × BitVec 16) : Rat :=
  kp * (hundredths pair.1.toInt - hundredths own.1.toInt) + kd * (hundredths pair.2.toInt - hundredths own.2.toInt)

/-- The clip to the symmetric bound (R264). -/
def clipTorque (limit u : Rat) : Rat := clampQ u (-limit) limit

/-- What COMPUTE.PD gives. -/
inductive PdOutcome where
  /-- the configuration does not allow it -/
  | refused
  /-- `ControlPreconditionError`, with the lowest invalid axis -/
  | invalid (k : AxisIx)
  | torques (t0 t1 : Rat)
deriving DecidableEq, Repr, Inhabited

/-- COMPUTE.PD on the registers of axes 0 and 1 (R262, R263, R264; assumption 31). -/
def pdOutcome (s : State) : PdOutcome :=
  match s.kp, s.kd, s.limit with
  | some kp, some kd, some limit =>
    if s.nax ≠ some 2 then .refused
    else
      match (s.axis 0).data, (s.axis 1).data with
      | none, _ => .invalid 0
      | some _, none => .invalid 1
      | some (p0, v0, _), some (p1, v1, _) =>
        .torques (clipTorque limit (pdTorque kp kd (p0, v0) (p1, v1)))
          (clipTorque limit (pdTorque kp kd (p1, v1) (p0, v0)))
  | _, _, _ => .refused

/-- Both torques are written in one update (R264). -/
def State.setTorques (s : State) (t0 t1 : Rat) : State :=
  (s.modAxis 0 fun a => { a with tq := some t0 }).modAxis 1 fun a => { a with tq := some t1 }

end Sys2Proof.Machine
end

