-- ==== Sys2Proof/Machine/Sequencer.lean ====
section
/-! DEFINITION. The moves of the workers and of the sequencer (`47_sequencer.md`). A move of an agent that is not
enabled changes nothing but the draws it took. -/

namespace Sys2Proof.Machine

/-! ### Workers -/

/-- Worker `k` has finished its phase (R35). -/
def State.finish (s : State) (k : AxisIx) : State := s.modAxis k fun a => { a with wstep := .done }

/-- Worker `k` in the refresh phase: one move of REFRESH `k` (R258; `46_session.md` R240). -/
def refreshMove (s : State) (k : AxisIx) : Step :=
  match (s.axis k).wstep with
  | .t1 =>
    match agentTransact s k 0x92 [] 14 with
    | (none, s1) => .next s1
    | (some (.refused _), _) => .fault .configLost
    | (some (.err e), s1) => .next ((refreshFail s1 k .refreshAngle e).finish k)
    | (some (.ok p), s1) =>
      match decMtang p with
      | none => .fault .configLost
      | some raw => .next (s1.modAxis k fun a => { a with held := raw, wstep := .t2 })
  | .t2 =>
    match agentTransact s k 0x9C [] 13 with
    | (none, s1) => .next s1
    | (some (.refused _), _) => .fault .configLost
    | (some (.err e), s1) => .next ((refreshFail s1 k .refreshStatus e).finish k)
    | (some (.ok p), s1) =>
      match decStat2 p with
      | none => .fault .configLost
      | some r => .next ((refreshDone s1 k (s1.axis k).held r).finish k)
  | .cmd => .next s
  | .done => .next s

/-- Worker `k` in the dispatch phase, mode PD: the torque command by TRANSACT; its reply is dropped and its error
reported (R266, R269). -/
def dispatchPdMove (s : State) (k : AxisIx) : Step :=
  match (s.axis k).tq with
  | none => .fault .configLost
  | some iq =>
    match agentTransact s k 0xA1 (torquePayload iq) (replyLen 0xA1) with
    | (none, s1) => .next s1
    | (some (.refused _), _) => .fault .configLost
    | (some (.err e), s1) => .next ((s1.report (.err s1.ticks k .dispatch e)).finish k)
    | (some (.ok _), s1) => .next (s1.finish k)

/-- The setpoints of an axis as its worker uses them: the sampled value, or, of a register not sampled yet, the value it
holds (R46, R268). -/
def Axis.setpoints (a : Axis) : Rat × Rat × Rat :=
  (a.smp.p.getD a.pDes, a.smp.v.getD a.vDes, a.smp.t.getD a.tFf)

/-- One setpoint register is sampled, once (R46). -/
def Axis.sample (a : Axis) : Setpoint → Axis
  | .pDes => { a with smp := { a.smp with p := some a.setpoints.1 } }
  | .vDes => { a with smp := { a.smp with v := some a.setpoints.2.1 } }
  | .tFf => { a with smp := { a.smp with t := some a.setpoints.2.2 } }

/-- Worker `k`, with a command pending in mode IMP, samples one setpoint register ahead of the others, so that a host
write between two samples is seen in one register and not in the other (`20_memory.md` R82(5); assumption 38). -/
def sampleMove (s : State) (k : AxisIx) (r : Setpoint) : State :=
  if s.active k ∧ s.phase = .dispatch ∧ s.mode = .imp ∧ (s.axis k).wstep = .cmd then s.modAxis k fun a => a.sample r
  else s

/-- The command of worker `k` is sent: what it has sampled is used up. -/
def State.clearSamples (s : State) (k : AxisIx) : State := s.modAxis k fun a => { a with smp := {} }

/-- Worker `k` in the dispatch phase, mode IMP: the registers not sampled yet are sampled here, and the command is sent
(R268). -/
def dispatchImpMove (s : State) (k : AxisIx) : Step :=
  match s.kp, s.kd with
  | some kp, some kd =>
    let sp := (s.axis k).setpoints
    match fireForget s k 0xA8 (impPayload sp.1 sp.2.1 kp kd sp.2.2) with
    | (some _, _) => .fault .configLost
    | (none, s1) => .next ((s1.clearSamples k).finish k)
  | _, _ => .fault .configLost

/-- A move of worker `k`: it is alive in the refresh and the dispatch phase only, and only for `k < NAX`
(`10_state.md` R20(b), `60_exceptions.md` R316). -/
def workerMove (s : State) (k : AxisIx) : Step :=
  if s.active k then
    match s.phase with
    | .refresh => refreshMove s k
    | .dispatch =>
      if (s.axis k).wstep = .cmd then
        match s.mode with
        | .pd => dispatchPdMove s k
        | .imp => dispatchImpMove s k
      else .next s
    | .idle | .startup | .tickStart | .check | .compute | .timing | .sleep | .between | .shutdown | .halted => .next s
  else .next s

/-! ### Startup and shutdown -/

/-- The axis `Startup` or `Shutdown` is at: `some` while there is one left (R252, R278). -/
def State.currentAxis (s : State) : Option AxisIx :=
  if h : s.seqAxis < 32 then
    if s.active ⟨s.seqAxis, h⟩ then some ⟨s.seqAxis, h⟩ else none
  else none

/-- The unrecoverable error: report, and every axis is to be disabled (R253, R254, R256). -/
def startupFail (s : State) (k : AxisIx) (site : Site) (e : ErrKind) : State :=
  { s.report (.err 0 k site e) with phase := .shutdown, seqAxis := 0 }

/-- The sequencer in `Startup`: the next move of the enable or zero transaction of the axis it is at, or, past the
last axis, all axes become `Running` (R252 to R256). -/
def startupMove (s : State) : Step :=
  match s.nax, s.currentAxis with
  | none, _ => .fault .configLost
  | some _, none =>
    .next { s.modActive (fun a => { a with life := .running }) with phase := .between }
  | some _, some k =>
    match s.seqStep with
    | .enable =>
      match agentTransact s k 0x88 [] (replyLen 0x88) with
      | (none, s1) => .next s1
      | (some (.refused _), _) => .fault .configLost
      | (some (.err e), s1) => .next (startupFail s1 k .startupEnable e)
      | (some (.ok _), s1) =>
        .next { s1.modAxis k (fun a => { a with life := .enabled }) with seqStep := .zero }
    | .zero =>
      match agentTransact s k zeroCmdId [] (replyLen zeroCmdId) with
      | (none, s1) => .next s1
      | (some (.refused _), _) => .fault .configLost
      | (some (.err e), s1) => .next (startupFail s1 k .startupZero e)
      | (some (.ok _), s1) =>
        .next
          { s1.modAxis k (fun a => { a with life := .zeroed }) with
            seqStep := .enable, seqAxis := s1.seqAxis + 1 }

/-- The sequencer in `Shutdown`: the next move of the disable transaction of the axis it is at; past the last axis,
`Halted`. A failure is reported, leaves `LIFE[k]`, and the next axis follows (R278). -/
def shutdownMove (s : State) : Step :=
  match s.nax, s.currentAxis with
  | none, _ => .fault .configLost
  | some _, none => .next { s with phase := .halted }
  | some _, some k =>
    match agentTransact s k 0x80 [] (replyLen 0x80) with
    | (none, s1) => .next s1
    | (some (.refused _), _) => .fault .configLost
    | (some (.err e), s1) =>
      .next { s1.report (.err s1.ticks k .shutdownDisable e) with seqAxis := s1.seqAxis + 1 }
    | (some (.ok _), s1) =>
      .next { s1.modAxis k (fun a => { a with life := .disabled }) with seqAxis := s1.seqAxis + 1 }

/-! ### The tick -/

/-- `TickStart` (R257). -/
def tickStartMove (s : State) : State :=
  { s.modActive (fun a => { a with tq := none, wstep := .t1 }) with
    ticks := s.ticks + 1, tStart := s.now, skip := false, phase := .refresh }

/-- `Check` (R260). -/
def checkMove (s : State) : State :=
  if s.skipNeeded then { s.report (.skip s.ticks) with skip := true, phase := .timing }
  else { s with skip := false, phase := .compute }

/-- The start of the dispatch phase: one worker per axis has its command pending (R266; assumption 27). -/
def State.enterDispatch (s : State) : State :=
  { s.modActive (fun a => { a with wstep := .cmd }) with phase := .dispatch }

/-- `Compute` (R261, R262). -/
def computeMove (s : State) : Step :=
  match s.mode with
  | .imp => .next s.enterDispatch
  | .pd =>
    match pdOutcome s with
    | .refused => .fault .configLost
    | .invalid k => .next { s.report (.err s.ticks k .compute .controlPrecondition) with phase := .timing }
    | .torques t0 t1 => .next (s.setTorques t0 t1).enterDispatch

/-- `Timing` (R271). -/
def timingMove (s : State) : Step :=
  match s.period with
  | none => .fault .configLost
  | some period =>
    let s1 := { s with tEnd := s.now }
    if overrunFlag s1.elapsed period then
      .next { s1.report (.overrun s1.ticks s1.elapsed) with overrun := true, phase := .between }
    else .next { s1 with overrun := false, phase := .sleep }

/-- `Sleep`: nothing until `NOW >= T_START + PERIOD` (R272). -/
def sleepMove (s : State) : Step :=
  match s.period with
  | none => .fault .configLost
  | some period => if s.tStart + period ≤ s.now then .next { s with phase := .between } else .next s

/-- `Between`: the only place where `CANCEL` is looked at (R274). -/
def betweenMove (s : State) : State :=
  if s.cancel then { s with phase := .shutdown, seqAxis := 0 } else { s with phase := .tickStart }

/-- A move of the sequencer (R250). -/
def sequencerMove (s : State) : Step :=
  match s.phase with
  | .idle => .next s
  | .startup => startupMove s
  | .tickStart => .next (tickStartMove s)
  | .refresh => if s.barrierPassed then .next { s with phase := .check } else .next s
  | .check => .next (checkMove s)
  | .compute => computeMove s
  | .dispatch => if s.barrierPassed then .next { s with phase := .timing } else .next s
  | .timing => timingMove s
  | .sleep => sleepMove s
  | .between => .next (betweenMove s)
  | .shutdown => shutdownMove s
  | .halted => .next s

end Sys2Proof.Machine
end

