-- ==== Sys2Proof/Machine/Agents.lean ====
section
/-! DEFINITION. The fetch at the host port, and the moves of the agents when no operation is placed there. -/

namespace Sys2Proof.Machine

/-- Places an operation at the port and starts it; the result of the last one stays until it runs (R111;
assumption 37). -/
def State.place (s : State) (r : Request) : State :=
  { s with port := { s.port with opsel := r.opsel, ops := r.ops, start := true } }

/-- The operation placed at the port (R111). -/
def State.placed (s : State) : Request := ⟨s.port.opsel, s.port.ops⟩

/-- The operation at the port is taken: it runs once. -/
def State.taken (s : State) : State := { s with port := { s.port with start := false } }

/-- What the decoder reads at the port, and the state in which it runs. -/
def fetch (s : State) : Except DecodeError Instr × State := (decode s.placed, s.taken)

/-- An operation select outside the table is refused (`93_implementation_defined.md` U14; assumption 34). -/
def badOpsel (s : State) : State := s.answer (.refused .badOpsel)

/-- The move of one agent (`10_state.md` R20). -/
def agentMove (e : Event) (s : State) : Step :=
  match e with
  | .request r => .next (s.place r)
  | .write w => .next (hostWrite w s)
  | .read r => .next (hostReadReg r s)
  | .device k bytes => .next (chArrive s k bytes)
  | .time dt => .next (s.passTime dt)
  | .worker k => workerMove s k
  | .sample k r => .next (sampleMove s k r)
  | .sequencer => sequencerMove s

/-- The next move, when no operation is placed at the port: which agent moves is a draw, but for the turns that every agent
of the block has again and again (R20, R78, R347; assumptions 1, 41). -/
def nextMove (s : State) : Step :=
  let (e, s1) := s.drawEvent
  agentMove e s1

/-- The request `withFetchWord` places: that of the word, or, for a word of no row, an unassigned select
(assumption 2). -/
def fetchRequest (nbits w : Nat) : Request :=
  match requestOfWord nbits w with
  | some r => r
  | none => ⟨0x3F, {}⟩

end Sys2Proof.Machine
end

