-- ==== Sys2Proof/Machine/Checksum.lean ====
section
/-! DEFINITION. CSUM.CLR, CSUM.ADD, CSUM.RD, CSUM8 (`40_checksum.md`). -/

namespace Sys2Proof.Machine

/-- CSUM.CLR (R121). -/
def execCsumClr (s : State) : Step := .next ({ s with acc := 0 }.answer (.ok .unit))

/-- CSUM.ADD (R122). -/
def execCsumAdd (b : Byte) (s : State) : Step := .next ({ s with acc := csumAdd s.acc b }.answer (.ok .unit))

/-- CSUM.RD (R123). -/
def execCsumRd (s : State) : Step := .next (s.answer (.ok (.byte s.acc)))

/-- CSUM8: a private accumulator, `ACC` untouched (R124). -/
def execCsum8 (bytes : List Byte) (s : State) : Step := .next (s.answer (.ok (.byte (csum8 bytes))))

end Sys2Proof.Machine
end

