-- ==== Sys2Proof/Machine/Actions.lean ====
section
/-! DEFINITION. The wire commands without a payload: each frames its command id with an empty payload into the host's
`TXBUF` (`42_cmd_actions_reads.md` R150). -/

namespace Sys2Proof.Machine

/-- ENABLE (R151). -/
def execEnable (k : AxisIx) (s : State) : Step := .next (encodeWire s k 0x88 (.ok []))

/-- DISABLE (R152). -/
def execDisable (k : AxisIx) (s : State) : Step := .next (encodeWire s k 0x80 (.ok []))

/-- STOP (R153). -/
def execStop (k : AxisIx) (s : State) : Step := .next (encodeWire s k 0x81 (.ok []))

/-- CLRERR (R154). -/
def execClrerr (k : AxisIx) (s : State) : Step := .next (encodeWire s k 0x9B (.ok []))

/-- ZERO (R155). -/
def execZero (k : AxisIx) (s : State) : Step := .next (encodeWire s k 0x19 (.ok []))

/-- ZERO95 (R156). -/
def execZero95 (k : AxisIx) (s : State) : Step := .next (encodeWire s k 0x95 (.ok []))

/-- CLRTURN (R157). -/
def execClrturn (k : AxisIx) (s : State) : Step := .next (encodeWire s k 0x93 (.ok []))

/-- RDSTAT1 (R158). -/
def execRdstat1 (k : AxisIx) (s : State) : Step := .next (encodeWire s k 0x9A (.ok []))

/-- RDSTAT2 (R159). -/
def execRdstat2 (k : AxisIx) (s : State) : Step := .next (encodeWire s k 0x9C (.ok []))

/-- RDENC (R160). -/
def execRdenc (k : AxisIx) (s : State) : Step := .next (encodeWire s k 0x90 (.ok []))

/-- RDMTANG (R161). -/
def execRdmtang (k : AxisIx) (s : State) : Step := .next (encodeWire s k 0x92 (.ok []))

/-- RDSTANG (R162). -/
def execRdstang (k : AxisIx) (s : State) : Step := .next (encodeWire s k 0x94 (.ok []))

end Sys2Proof.Machine
end

