-- ==== Sys2Proof/Machine/Control.lean ====
section
/-! DEFINITION. COMPUTE.PD, RUN, CANCEL at the host port (`47_sequencer.md`). -/

namespace Sys2Proof.Machine

/-- COMPUTE.PD started by the host: the error is returned to it (R262; `60_exceptions.md` R300). -/
def execComputePd (s : State) : Step :=
  if s.busy then .next (s.answer (.refused .busy))
  else
    match pdOutcome s with
    | .refused => .next (s.answer (.refused .config))
    | .invalid _ => .next (s.answer (.err .controlPrecondition))
    | .torques t0 t1 => .next ((s.setTorques t0 t1).answer (.ok (.torques t0 t1)))

/-- RUN: the phase is checked first, then the configuration; on acceptance the run starts at axis 0's enable
(R251, `90_conflicts.md` C10; assumption 8). -/
def execRun (s : State) : Step :=
  if s.busy then .next (s.answer (.refused .busy))
  else if !s.configured then .next (s.answer (.refused .config))
  else
    .next ({ s with cancel := false, ticks := 0, phase := .startup, seqAxis := 0, seqStep := .enable }.answer
      (.ok .unit))

/-- CANCEL: accepted in every phase (R274). -/
def execCancel (s : State) : Step := .next ({ s with cancel := true }.answer (.ok .unit))

end Sys2Proof.Machine
end

