-- ==== Sys2Proof/Machine/Frames.lean ====
section
/-! DEFINITION. BUILD and VALIDATE at the host port (`41_frame_codec.md`). -/

namespace Sys2Proof.Machine

/-- BUILD on the host's codec instance (R130). -/
def execBuild (c a : Byte) (p : List Byte) (s : State) : Step :=
  match s.host.build c a p with
  | .error r => .next (s.answer (.refused r))
  | .ok cd => .next ({ s with host := cd }.answer (.ok (.bytes cd.txbuf)))

/-- VALIDATE of the bytes in the host's `RXBUF`; `expected_len = 0` is refused (R132, R133; assumption 24). -/
def execValidate (expectedLen : Nat) (s : State) : Step :=
  if expectedLen = 0 then .next (s.answer (.refused .decodeLength))
  else
    let r := s.host.validate s.host.rxbuf expectedLen
    match r.1 with
    | .ok p => .next ({ s with host := r.2 }.answer (.ok (.bytes p)))
    | .error e => .next ({ s with host := r.2 }.answer (.err e))

end Sys2Proof.Machine
end

