-- ==== Sys2Proof/Machine/Impedance.lean ====
section
/-! DEFINITION. QUANT, IMPPACK, IMPEDANCE at the host port (`45_quantizer.md`). -/

namespace Sys2Proof.Machine

/-- QUANT (R211). -/
def execQuant (x mn mx : Rat) (bits : Nat) (s : State) : Step :=
  match quantChecked x mn mx bits with
  | .error r => .next (s.answer (.refused r))
  | .ok r => .next ({ s with qout := BitVec.ofNat 16 r }.answer (.ok (.word (BitVec.ofNat 16 r))))

/-- IMPPACK: never refused (R217; `QOUT`: assumption 35). -/
def execImppack (p v kp kd t : Rat) (s : State) : Step :=
  .next ({ s with impbuf := impPayload p v kp kd t }.answer (.ok (.bytes (impPayload p v kp kd t))))

/-- IMPEDANCE: pack, then FIREFORGET `0xA8`; the frame stands in the host's `TXBUF` and the payload in `IMPBUF`
(R220, `30_encoding.md` R108, R109, R112; assumption 18). -/
def execImpedance (k : AxisIx) (p v kp kd t : Rat) (s : State) : Step :=
  match s.channelRefusal k 0 with
  | some r => .next (s.answer (.refused r))
  | none =>
    let pl := impPayload p v kp kd t
    match hostFireForget s k 0xA8 pl (Config.hostSite s.rlog.length) with
    | (some r, s1) => .next (s1.answer (.refused r))
    | (none, s1) => .next (encodeWire { s1 with impbuf := pl } k 0xA8 (.ok pl))

end Sys2Proof.Machine
end

