-- ==== Sys2Proof/Machine/Responses.lean ====
section
/-! DEFINITION. DEC.MTANG, DEC.STAT2, DEC.STANG at the host port (`44_decoders.md`). -/

namespace Sys2Proof.Machine

/-- DEC.MTANG (R196). -/
def execDecMtang (payload : List Byte) (s : State) : Step :=
  match decMtang payload with
  | none => .next (s.answer (.refused .decodeLength))
  | some raw => .next (s.answer (.ok (.angle64 raw (hundredths raw.toInt))))

/-- DEC.STAT2 (R197). -/
def execDecStat2 (payload : List Byte) (s : State) : Step :=
  match decStat2 payload with
  | none => .next (s.answer (.refused .decodeLength))
  | some r => .next (s.answer (.ok (.stat2 r)))

/-- DEC.STANG: the angle is unsigned (R198). -/
def execDecStang (payload : List Byte) (s : State) : Step :=
  match decStang payload with
  | none => .next (s.answer (.refused .decodeLength))
  | some raw => .next (s.answer (.ok (.angle32 raw (hundredths raw.toNat))))

end Sys2Proof.Machine
end

