-- ==== Sys2Proof/Machine/Scalars.lean ====
section
/-! DEFINITION. The scalar-set and parameter commands: each frames its payload into the host's `TXBUF`
(`43_cmd_scalar.md` R170). -/

namespace Sys2Proof.Machine

/-- OPENLOOP (R171). -/
def execOpenloop (k : AxisIx) (raw : List Byte) (s : State) : Step :=
  .next (encodeWire s k 0xA0 (openloopPayload raw))

/-- TORQUE (R172). -/
def execTorque (k : AxisIx) (iq : Rat) (s : State) : Step :=
  .next (encodeWire s k 0xA1 (.ok (torquePayload iq)))

/-- SPEED (R173). -/
def execSpeed (k : AxisIx) (w : Rat) (s : State) : Step :=
  .next (encodeWire s k 0xA2 (speedPayload w))

/-- POS (R174). -/
def execPos (k : AxisIx) (th : Rat) (s : State) : Step :=
  .next (encodeWire s k 0xA3 (posPayload th))

/-- POSSPD (R175). -/
def execPosspd (k : AxisIx) (th w : Rat) (s : State) : Step :=
  .next (encodeWire s k 0xA4 (posspdPayload th w))

/-- SCPOS (R176). -/
def execScpos (k : AxisIx) (dir : Byte) (ang : Rat) (s : State) : Step :=
  .next (encodeWire s k 0xA5 (scposPayload dir ang))

/-- SCPOSSPD (R177). -/
def execScposspd (k : AxisIx) (dir : Byte) (ang w : Rat) (s : State) : Step :=
  .next (encodeWire s k 0xA6 (scposspdPayload dir ang w))

/-- INCPOS (R178). -/
def execIncpos (k : AxisIx) (d : Rat) (s : State) : Step :=
  .next (encodeWire s k 0xA7 (incposPayload d))

/-- INCPOSSPD (R179). -/
def execIncposspd (k : AxisIx) (d w : Rat) (s : State) : Step :=
  .next (encodeWire s k 0xA8 (incposspdPayload d w))

/-- PARAMRD (R180). -/
def execParamrd (k : AxisIx) (raw : List Byte) (s : State) : Step :=
  .next (encodeWire s k 0x40 (.ok raw))

/-- PARAMWR_RAM (R181). -/
def execParamwrRam (k : AxisIx) (raw : List Byte) (s : State) : Step :=
  .next (encodeWire s k 0x42 (.ok raw))

/-- PARAMWR_ROM (R182). -/
def execParamwrRom (k : AxisIx) (raw : List Byte) (s : State) : Step :=
  .next (encodeWire s k 0x44 (.ok raw))

end Sys2Proof.Machine
end

