-- ==== Sys2Proof/Machine/Session.lean ====
section
/-! DEFINITION. TRANSACT, FIREFORGET, REFRESH, ISVALID at the host port (`46_session.md`). -/

namespace Sys2Proof.Machine

/-- A transaction's end as the port's result (`60_exceptions.md` R306). -/
def Reply.toResult : Reply → Result
  | .refused r => .refused r
  | .err e => .err e
  | .ok p => .ok (.bytes p)

/-- TRANSACT (R231). -/
def execTransact (k : AxisIx) (c : Byte) (p : List Byte) (n : Nat) (s : State) : Step :=
  match s.channelRefusal k n with
  | some r => .next (s.answer (.refused r))
  | none =>
    let r := hostTransact s k c p n
    .next (r.2.answer r.1.toResult)

/-- FIREFORGET: the record's tick field is 0 and its site a free value (R234; assumption 17). -/
def execFireforget (k : AxisIx) (c : Byte) (p : List Byte) (s : State) : Step :=
  match s.channelRefusal k 0 with
  | some r => .next (s.answer (.refused r))
  | none =>
    match hostFireForget s k c p (Config.hostSite s.rlog.length) with
    | (some r, s1) => .next (s1.answer (.refused r))
    | (none, s1) => .next (s1.answer (.ok .unit))

/-- The two transactions of REFRESH as one operation of the host, and its group update or its catcher; the first
component is a refusal, which a legal `AXIS_ID` rules out (R240, R241). -/
def hostRefresh (s : State) (k : AxisIx) : Option RefuseReason × State :=
  match hostTransact s k 0x92 [] 14 with
  | (.refused r, s1) => (some r, s1)
  | (.err e, s1) => (none, refreshFail s1 k .refreshAngle e)
  | (.ok p1, s1) =>
    match decMtang p1 with
    | none => (some .decodeLength, s1)
    | some raw =>
      match hostTransact s1 k 0x9C [] 13 with
      | (.refused r, s2) => (some r, s2)
      | (.err e, s2) => (none, refreshFail s2 k .refreshStatus e)
      | (.ok p2, s2) =>
        match decStat2 p2 with
        | none => (some .decodeLength, s2)
        | some r => (none, refreshDone s2 k raw r)

/-- REFRESH: no error reaches the caller (R240). -/
def execRefresh (k : AxisIx) (s : State) : Step :=
  match s.channelRefusal k 14 with
  | some r => .next (s.answer (.refused r))
  | none =>
    match hostRefresh s k with
    | (some r, s1) => .next (s1.answer (.refused r))
    | (none, s1) => .next (s1.answer (.ok .unit))

/-- ISVALID: reads only, in every phase, refused never (R242; assumption 21). -/
def execIsvalid (k : AxisIx) (s : State) : Step := .next (s.answer (.ok (.bit (s.axis k).valid)))

end Sys2Proof.Machine
end

