-- ==== Sys2Proof/Machine/Dispatch.lean ====
section
/-! DEFINITION. One arm per instruction. -/

namespace Sys2Proof.Machine

/-- The meaning of every instruction, once the host port has decoded it (`30_encoding.md` R111, R112). -/
def exec (i : Instr) (s : State) : Host.Outcome State Fault Refusal :=
  match i with
  | .enable k => Sys2Proof.Machine.execEnable k s
  | .disable k => Sys2Proof.Machine.execDisable k s
  | .stop k => Sys2Proof.Machine.execStop k s
  | .clrerr k => Sys2Proof.Machine.execClrerr k s
  | .zero k => Sys2Proof.Machine.execZero k s
  | .zero95 k => Sys2Proof.Machine.execZero95 k s
  | .clrturn k => Sys2Proof.Machine.execClrturn k s
  | .rdstat1 k => Sys2Proof.Machine.execRdstat1 k s
  | .rdstat2 k => Sys2Proof.Machine.execRdstat2 k s
  | .rdenc k => Sys2Proof.Machine.execRdenc k s
  | .rdmtang k => Sys2Proof.Machine.execRdmtang k s
  | .rdstang k => Sys2Proof.Machine.execRdstang k s
  | .openloop k raw => Sys2Proof.Machine.execOpenloop k raw s
  | .torque k iq => Sys2Proof.Machine.execTorque k iq s
  | .speed k w => Sys2Proof.Machine.execSpeed k w s
  | .pos k th => Sys2Proof.Machine.execPos k th s
  | .posspd k th w => Sys2Proof.Machine.execPosspd k th w s
  | .scpos k dir ang => Sys2Proof.Machine.execScpos k dir ang s
  | .scposspd k dir ang w => Sys2Proof.Machine.execScposspd k dir ang w s
  | .incpos k d => Sys2Proof.Machine.execIncpos k d s
  | .incposspd k d w => Sys2Proof.Machine.execIncposspd k d w s
  | .impedance k p v kp kd t => Sys2Proof.Machine.execImpedance k p v kp kd t s
  | .paramrd k raw => Sys2Proof.Machine.execParamrd k raw s
  | .paramwrRam k raw => Sys2Proof.Machine.execParamwrRam k raw s
  | .paramwrRom k raw => Sys2Proof.Machine.execParamwrRom k raw s
  | .csumClr => Sys2Proof.Machine.execCsumClr s
  | .csumAdd b => Sys2Proof.Machine.execCsumAdd b s
  | .csumRd => Sys2Proof.Machine.execCsumRd s
  | .csum8 bytes => Sys2Proof.Machine.execCsum8 bytes s
  | .build c a p => Sys2Proof.Machine.execBuild c a p s
  | .validate n => Sys2Proof.Machine.execValidate n s
  | .decMtang payload => Sys2Proof.Machine.execDecMtang payload s
  | .decStat2 payload => Sys2Proof.Machine.execDecStat2 payload s
  | .decStang payload => Sys2Proof.Machine.execDecStang payload s
  | .quant x mn mx bits => Sys2Proof.Machine.execQuant x mn mx bits s
  | .imppack p v kp kd t => Sys2Proof.Machine.execImppack p v kp kd t s
  | .transact k c p n => Sys2Proof.Machine.execTransact k c p n s
  | .fireforget k c p => Sys2Proof.Machine.execFireforget k c p s
  | .refresh k => Sys2Proof.Machine.execRefresh k s
  | .isvalid k => Sys2Proof.Machine.execIsvalid k s
  | .computePd => Sys2Proof.Machine.execComputePd s
  | .run => Sys2Proof.Machine.execRun s
  | .cancel => Sys2Proof.Machine.execCancel s

end Sys2Proof.Machine
end

