-- ==== Sys2Proof/Machine/Step.lean ====
section
/-! DEFINITION. One step of the machine, and the placing of a word of the opcode table at the host port. -/

namespace Sys2Proof.Machine

/-- One step: the operation placed at the host port, if there is one; else one move of an agent (`10_state.md` R20,
`30_encoding.md` R111). -/
def step (s : State) : Host.Outcome State Fault Refusal :=
  if s.port.start then
    match fetch s with
    | (.ok i, s1) => exec i s1
    | (.error _, s1) => .next (badOpsel s1)
  else nextMove s

/-- `s` with the operation of a table word placed at the host port, so that the next step runs it (assumption 2). -/
def State.withFetchWord (s : State) (nbits w : Nat) : State := s.place (fetchRequest nbits w)

end Sys2Proof.Machine
end

