-- ==== Sys2Proof/Safety.lean ====
section
/-! DEFINITION. What a well-kept state is, in the terms the claims use: the invariants of the spec, one by one and
together, and the relations between a state and its successor that frames are stated with. -/

namespace Sys2Proof.Machine

/-! ### Frames -/

/-- `t` is `s` but for channel `k`, with its codec instance and its read in progress, the channel draws taken, and
the time (`20_memory.md` R67, R77). -/
def ChannelOnly (k : AxisIx) (s t : State) : Prop :=
  t = { s with axes := t.axes, links := t.links, drawn := t.drawn, now := t.now } ∧
  (∀ j, j ≠ k → t.axis j = s.axis j) ∧
  t.axis k =
    { s.axis k with
      rxq := (t.axis k).rxq, txh := (t.axis k).txh, codec := (t.axis k).codec, wait := (t.axis k).wait }

/-- `b` is `a` after bytes have arrived in its queue (`20_memory.md` R66). -/
def Receives (a b : Axis) : Prop := ∃ bytes, b = { a with rxq := a.rxq ++ bytes }

/-- As `ChannelOnly`, for an operation of the host, during which bytes may arrive on the other channels (R66, R67). -/
def HostOnly (k : AxisIx) (s t : State) : Prop :=
  t = { s with axes := t.axes, links := t.links, drawn := t.drawn, now := t.now } ∧
  (∀ j, j ≠ k → Receives (s.axis j) (t.axis j)) ∧
  t.axis k =
    { s.axis k with
      rxq := (t.axis k).rxq, txh := (t.axis k).txh, codec := (t.axis k).codec, wait := (t.axis k).wait }

/-- The three fields of AxisState (`10_state.md` R31). -/
def Axis.group (a : Axis) : Option (BitVec 64) × Option (BitVec 16) × Option (BitVec 16) := (a.pos, a.vel, a.trq)

/-! ### Outcomes of an instruction -/

/-- The frame of the two formats, written out: marker, command id, axis id, length, header checksum, and the payload
with its checksum when there is one (`30_encoding.md` R91, R92). -/
def frameBytes (c a : Byte) (p : List Byte) : List Byte :=
  [0x3E, c, a, BitVec.ofNat 8 p.length, 0x3E + c + a + BitVec.ofNat 8 p.length] ++
    (if p = [] then [] else p ++ [BitVec.ofNat 8 ((p.map BitVec.toNat).sum)])

/-- The instruction completes: the frame stands in the host's `TXBUF` and is handed over, and nothing else changes
but the host's stream registers, which no operation shows (`30_encoding.md` R108, `10_state.md` R23). -/
def Frames (i : Instr) (s : State) (f : List Byte) : Prop :=
  ∃ st, exec i s = .next ({ s with host := { s.host with txbuf := f, st := st } }.answer (.ok (.bytes f)))

/-- The instruction is refused: the reason is handed over, and nothing else changes (`60_exceptions.md` R296). -/
def Refuses (i : Instr) (s : State) (r : RefuseReason) : Prop := exec i s = .next (s.answer (.refused r))

/-! ### Moves of agents -/

/-- One move of TRANSACT `c, p` with reply length `n` by a worker or the sequencer on channel `k` of axis id `a`, from `s`
to `t`: the first discards and writes, a later one looks at the reply; `r` is how the transaction ended, `none` while its
read is in progress (`46_session.md` R231, `20_memory.md` R63 to R66; the form of the moves: assumption 7). -/
def TransactMove (k : AxisIx) (a c : Byte) (p : List Byte) (n : Nat) (s : State) (r : Option Reply) (t : State) : Prop :=
  ChannelOnly k s t ∧ t.now = s.now ∧
  match (s.axis k).wait with
  | none =>
    (t.axis k).rxq = s.drawLink.1.arrive ∧
      (match s.drawLink.1.sent with
      | some j =>
        r = some (.err .transport) ∧ (t.axis k).txh = (s.axis k).txh ++ (frameBytes c a p).take j ∧
          (t.axis k).wait = none
      | none =>
        (t.axis k).txh = (s.axis k).txh ++ frameBytes c a p ∧
          (if n = 0 then r = some (.ok []) ∧ (t.axis k).wait = none else r = none ∧ (t.axis k).wait = some s.now))
  | some since =>
    (t.axis k).txh = (s.axis k).txh ∧
      (if s.drawLink.1.readFails = true then
        r = some (.err .transport) ∧ (t.axis k).rxq = (s.axis k).rxq ∧ (t.axis k).wait = none
      else if n ≤ (s.axis k).rxq.length then
        r = some (match validateFrame ((s.axis k).rxq.take n) n with | .ok q => .ok q | .error e => .err e) ∧
          (t.axis k).rxq = (s.axis k).rxq.drop n ∧ (t.axis k).wait = none
      else
        ∃ T, s.tRead = some T ∧
          (if since + T ≤ s.now then r = some (.err .timeout) ∧ (t.axis k).rxq = [] ∧ (t.axis k).wait = none
          else r = none ∧ t.axis k = s.axis k))

/-- Some moves of agents, one after another. -/
def runMoves : List Event → State → Step
  | [], s => .next s
  | e :: es, s =>
    match agentMove e s with
    | .next t => runMoves es t
    | .fault f => .fault f
    | .refused r => .refused r

/-- Some steps of the machine, one after another. -/
def runSteps : Nat → State → Step
  | 0, s => .next s
  | n + 1, s =>
    match step s with
    | .next t => runSteps n t
    | .fault f => .fault f
    | .refused r => .refused r

/-- A run from `s` comes to a state that satisfies `p`. -/
def Reaches (s : State) (p : State → Prop) : Prop := ∃ n t, runSteps n s = .next t ∧ p t

/-! ### Invariants -/

/-- The atomic-group invariant: all three fields of AxisState are populated, or none is (`10_state.md` R31). -/
def AtomicGroup (s : State) : Prop :=
  ∀ k, (s.axis k).vel.isSome = (s.axis k).pos.isSome ∧ (s.axis k).trq.isSome = (s.axis k).pos.isSome

/-- Every configuration register is unset or holds a legal value (`10_state.md` R26, R42, R43, R44;
`60_exceptions.md` R309). -/
def LegalConfig (s : State) : Prop :=
  (∀ k v, (s.axis k).axisId = some v → 1 ≤ v.toNat ∧ v.toNat ≤ 32) ∧
  (∀ n, s.nax = some n → 1 ≤ n ∧ n ≤ 32) ∧
  (∀ q, s.limit = some q → 0 ≤ q) ∧
  (∀ n, s.period = some n → 1 ≤ n) ∧
  (∀ n, s.tRead = some n → 1 ≤ n)

/-- The widths of the buffers and of the index register (`10_state.md` R23, R24, R25). -/
def BufferBounds (s : State) : Prop :=
  s.impbuf.length = 8 ∧ s.host.txbuf.length ≤ 261 ∧ s.host.rxbuf.length ≤ 261 ∧ s.host.st.sidx ≤ 261 ∧
  ∀ k, (s.axis k).codec.txbuf.length ≤ 261

/-- Outside `Idle` and `Halted` the configuration that RUN has checked still stands (`20_memory.md` R84,
`47_sequencer.md` R251). -/
def ConfigHeld (s : State) : Prop := s.busy = true → s.configured = true

/-- The step indexes a worker can have in a phase (`10_state.md` R35): every step index is `W_DONE` but those of the
axes below `NAX` in the two parallel phases (`60_exceptions.md` R316). -/
def WorkersInPhase (s : State) : Prop :=
  ∀ k, (s.axis k).wstep = .done ∨
    (s.active k = true ∧ s.phase = .refresh ∧ ((s.axis k).wstep = .t1 ∨ (s.axis k).wstep = .t2)) ∨
    (s.active k = true ∧ s.phase = .dispatch ∧ (s.axis k).wstep = .cmd)

/-- A read in progress on channel `k` belongs to the agent that owns the channel, and its call time is past; the
impedance dispatch reads nothing (`20_memory.md` R65, R67; `47_sequencer.md` R268). -/
def ReadsOwned (s : State) : Prop :=
  ∀ k since, (s.axis k).wait = some since →
    since ≤ s.now ∧
    ((s.axis k).wstep = .t1 ∨ (s.axis k).wstep = .t2 ∨ ((s.axis k).wstep = .cmd ∧ s.mode = .pd) ∨
      ((s.phase = .startup ∨ s.phase = .shutdown) ∧ s.currentAxis = some k))

/-- In the dispatch phase of mode PD every torque still to be sent is there (`47_sequencer.md` R264, R266). -/
def TorquesReady (s : State) : Prop :=
  s.phase = .dispatch → s.mode = .pd → ∀ k, (s.axis k).wstep = .cmd → (s.axis k).tq.isSome = true

/-- No time stamp lies in the future, and a finished tick's end is not before its start (`60_exceptions.md` R313). -/
def ClockOrder (s : State) : Prop :=
  s.tStart ≤ s.now ∧ s.tEnd ≤ s.now ∧ (s.phase = .sleep → s.tStart ≤ s.tEnd)

/-- In the compute and the dispatch phase every required axis is valid (`70_reset_and_hazards.md` R338). -/
def TickChecked (s : State) : Prop :=
  s.phase = .compute ∨ s.phase = .dispatch → s.skip = false ∧ s.skipNeeded = false

/-- From the end of `Startup` to `Shutdown` every axis is `Running` (`47_sequencer.md` R255). -/
def AxesRunning (s : State) : Prop :=
  s.phase ≠ .idle → s.phase ≠ .halted → s.phase ≠ .startup → s.phase ≠ .shutdown →
    ∀ k, s.active k = true → (s.axis k).life = .running

/-- The sequencer sleeps only after a tick that took less than its period (`47_sequencer.md` R271). -/
def SleepEarned (s : State) : Prop :=
  s.phase = .sleep → s.overrun = false ∧ ∀ p, s.period = some p → s.elapsed < p

/-- The place in `Startup`: the axes before the one it is at are `Zeroed`, and that one is `Enabled` once its zero step is
next (`47_sequencer.md` R252 to R254; the place is a register of the model's own, assumption 8). -/
def StartupPlace (s : State) : Prop :=
  s.phase = .startup →
    (∀ k, s.active k = true → k.val < s.seqAxis → (s.axis k).life = .zeroed) ∧
    (s.seqStep = .zero → ∀ k, s.currentAxis = some k → (s.axis k).life = .enabled)

/-- A sampled setpoint belongs to a worker whose command is pending in mode IMP (`10_state.md` R46; assumption 38). -/
def SamplesOwned (s : State) : Prop :=
  ∀ k, (s.axis k).smp ≠ {} → s.phase = .dispatch ∧ s.mode = .imp ∧ (s.axis k).wstep = .cmd

/-- No read in progress has lasted longer than `T_READ` (`46_session.md` R233, `70_reset_and_hazards.md` R346). -/
def ReadsInTime (s : State) : Prop :=
  ∀ k since T, (s.axis k).wait = some since → s.tRead = some T → s.now ≤ since + T

/-- All invariants together: what every state of a run satisfies. -/
structure Inv (s : State) : Prop where
  atomicGroup : AtomicGroup s
  legalConfig : LegalConfig s
  bufferBounds : BufferBounds s
  configHeld : ConfigHeld s
  workersInPhase : WorkersInPhase s
  readsOwned : ReadsOwned s
  torquesReady : TorquesReady s
  clockOrder : ClockOrder s
  tickChecked : TickChecked s
  axesRunning : AxesRunning s
  sleepEarned : SleepEarned s
  startupPlace : StartupPlace s
  samplesOwned : SamplesOwned s
  readsInTime : ReadsInTime s

end Sys2Proof.Machine
end

