-- ==== Sys2Proof/Certificates/Slice0/Obligations.lean ====
section
/-! DEFINITION. The statements for the provers. -/

section Statements

open Sys2Proof Sys2Proof.Machine

/-! ### The checksum adder -/

/-- R121, R122, R123, with their encodings. -/
def Obligations.ChecksumMicroSteps : Prop :=
  (∀ o : Operands, decode ⟨0x00, o⟩ = .ok .csumClr ∧ decode ⟨0x01, o⟩ = .ok (.csumAdd o.u0) ∧
    decode ⟨0x02, o⟩ = .ok .csumRd) ∧
  ∀ (s : State) (b : Byte),
    exec .csumClr s = .next ({ s with acc := 0 }.answer (.ok .unit)) ∧
    exec (.csumAdd b) s =
      .next ({ s with acc := BitVec.ofNat 8 ((s.acc.toNat + b.toNat) % 256) }.answer (.ok .unit)) ∧
    exec .csumRd s = .next (s.answer (.ok (.byte s.acc)))

/-- R124 and the laws of R125. -/
def Obligations.Csum8IsByteSum : Prop :=
  (∀ o : Operands, decode ⟨0x03, o⟩ = .ok (.csum8 o.bs)) ∧
  csum8 [] = 0 ∧
  (∀ (m : List Byte) (b : Byte), csum8 (m ++ [b]) = BitVec.ofNat 8 (((csum8 m).toNat + b.toNat) % 256)) ∧
  (∀ (m : List Byte) (s : State),
     exec (.csum8 m) s =
       .next (s.answer (.ok (.byte (BitVec.ofNat 8 ((m.map BitVec.toNat).sum % 256))))) ∧
     csum8 m = BitVec.ofNat 8 ((m.map BitVec.toNat).sum % 256)) ∧
  (∀ a b : List Byte, csum8 (a ++ b) = BitVec.ofNat 8 (((csum8 a).toNat + (csum8 b).toNat) % 256)) ∧
  (∀ a b : List Byte, a.Perm b → csum8 a = csum8 b) ∧
  (∀ (u v : List Byte) (x y : Byte), x ≠ y → csum8 (u ++ x :: v) ≠ csum8 (u ++ y :: v)) ∧
  ∀ (u v w : List Byte) (x₁ x₂ y₁ y₂ : Byte), x₁ + x₂ = y₁ + y₂ →
    csum8 (u ++ x₁ :: (v ++ x₂ :: w)) = csum8 (u ++ y₁ :: (v ++ y₂ :: w))

/-! ### Frames -/

/-- R130: the frame, the place it goes to, and the two refusals. -/
def Obligations.BuildMakesTheFrame : Prop :=
  (∀ o : Operands, decode ⟨0x04, o⟩ = .ok (.build o.u0 o.u1 o.bs)) ∧
  ∀ (c a : Byte) (p : List Byte) (s : State),
    (p.length ≤ 255 → 1 ≤ a.toNat → a.toNat ≤ 32 → Frames (.build c a p) s (frameBytes c a p)) ∧
    (255 < p.length ∨ a.toNat < 1 ∨ 32 < a.toNat → Refuses (.build c a p) s .encodeRange)

/-- R131. -/
def Obligations.BuiltFrameProperties : Prop :=
  (∀ (c a : Byte) (p f : List Byte), buildFrame c a p = .ok f →
    f.length = (if p.length = 0 then 5 else p.length + 6) ∧
    f[0]? = some 0x3E ∧
    (f[3]?.map BitVec.toNat) = some p.length ∧
    f[4]? = some (csum8 (f.take 4)) ∧
    (0 < p.length → (f.drop 5).take p.length = p ∧ f[f.length - 1]? = some (csum8 p))) ∧
  ∀ (c a : Byte) (p : List Byte) (s t : State),
    ∃ s' t', exec (.build c a p) s = .next s' ∧ exec (.build c a p) t = .next t' ∧
      s'.port.result = t'.port.result

/-- R132, R133, R296: the three checks in their order, on the bytes in `RXBUF`, and the refusal of length 0; the operation
leaves everything but the stream registers and the result. That length 0 is refused before the checks, whatever stands in
`RXBUF`, is the model's reading (assumption 24). -/
def Obligations.ValidateChecks : Prop :=
  (∀ o : Operands, decode ⟨0x05, o⟩ = .ok (.validate o.n)) ∧
  (∀ s : State, exec (.validate 0) s = .next (s.answer (.refused .decodeLength))) ∧
  ∀ (n : Nat) (s : State), 1 ≤ n →
    ∃ st, exec (.validate n) s =
      .next ({ s with host := { s.host with st := st } }.answer
        (if s.host.rxbuf.length ≠ n then .err .timeout
        else if s.host.rxbuf[0]? ≠ some 0x3E then .err .invalidHeader
        else if n ≤ 5 then .ok (.bytes [])
        else if s.host.rxbuf[n - 1]? = some (csum8 ((s.host.rxbuf.drop 5).take (n - 6))) then
          .ok (.bytes ((s.host.rxbuf.drop 5).take (n - 6)))
        else .err .checksum))

/-- R134: bytes 1 to 4 of a response do not matter. -/
def Obligations.HeaderFieldsNotExamined : Prop :=
  (∀ (raw : List Byte) (n i : Nat) (b : Byte), 1 ≤ i → i ≤ 4 → validateFrame (raw.set i b) n = validateFrame raw n) ∧
  ∀ (b₁ b₂ b₃ b₄ : Byte) (p : List Byte),
    validateFrame (0x3E :: b₁ :: b₂ :: b₃ :: b₄ :: (p ++ [csum8 p])) (p.length + 6) = .ok p

/-- R135 and R136: the round trip, and what a change of one byte of a built frame does to it. -/
def Obligations.RoundTripAndCorruption : Prop :=
  (∀ (c a : Byte) (p : List Byte), 1 ≤ a.toNat → a.toNat ≤ 32 → p.length ≤ 255 →
     ∃ f, buildFrame c a p = .ok f ∧ validateFrame f f.length = .ok p) ∧
  ∀ (c a : Byte) (p f : List Byte), buildFrame c a p = .ok f → 1 ≤ p.length →
    (∀ (i : Nat) (b : Byte), i < f.length → f[i]? ≠ some b →
      (i = 0 → validateFrame (f.set i b) f.length = .error .invalidHeader) ∧
      (1 ≤ i ∧ i ≤ 4 → validateFrame (f.set i b) f.length = .ok p) ∧
      (5 ≤ i → validateFrame (f.set i b) f.length = .error .checksum)) ∧
    (∀ i, i < f.length → validateFrame (f.eraseIdx i) f.length = .error .timeout) ∧
    (∀ (i : Nat) (b : Byte), i ≤ f.length → validateFrame (f.insertIdx i b) f.length = .error .timeout)

/-- R145. -/
def Obligations.StreamingFormAgrees : Prop :=
  (∀ (c a : Byte) (p f : List Byte), buildFrame c a p = .ok f → (serialize c a p).1 = f) ∧
  ∀ (raw : List Byte) (n : Nat), raw.length = n → 1 ≤ n → deserialize raw n = validateFrame raw n

/-! ### Encodings -/

/-- R112: every instruction is what its request decodes to, and no other operation select decodes to it; a select outside
the table is refused and changes nothing else (`93_implementation_defined.md` U14; the reason's name is the model's,
assumption 34). And words of each family, written out from R91, R92, R112 and R113, decode to what
they stand for; that a word of the table has every operand zero is the model's convention (assumption 4). -/
def Obligations.PortDecodesItsTable : Prop :=
  (∀ i : Instr, decode (encode i) = .ok i) ∧
  (∀ (r : Request) (i : Instr), decode r = .ok i → r.opsel = (encode i).opsel) ∧
  (∀ r : Request, (∃ e, decode r = .error e) ↔
    r.opsel.toNat ∉ [0x00, 0x01, 0x02, 0x03, 0x04, 0x05, 0x08, 0x09, 0x0A, 0x0C, 0x0D, 0x10, 0x11, 0x12, 0x13, 0x14,
      0x18, 0x19] ∧ ¬(0x20 ≤ r.opsel.toNat ∧ r.opsel.toNat ≤ 0x38)) ∧
  (∀ (s : State) (e : DecodeError), s.port.start = true → decode s.placed = .error e →
    step s = .next (s.taken.answer (.refused .badOpsel))) ∧
  decodeTableWord 32 0x3E880000 = some (.enable 0) ∧
  decodeTableWord 32 0x3E9C0000 = some (.rdstat2 0) ∧
  decodeTableWord 32 0x3EA10002 = some (.torque 0 0) ∧
  decodeTableWord 32 0x3E440000 = some (.paramwrRom 0 []) ∧
  decodeTableWord 8 0x01 = some (.csumAdd 0) ∧
  decodeTableWord 8 0x0D = some (.imppack 0 0 0 0 0) ∧
  decodeTableWord 8 0x12 = some (.refresh 0) ∧
  decodeTableWord 8 0x18 = some .run ∧
  decodeFrame [0x3E, 0x88, 0x01, 0x00, 0xC7] = .ok ⟨[0x20], 0x01, []⟩ ∧
  decodeFrame [0x3E, 0xA1, 0x01, 0x02, 0xE2, 0x64, 0x00, 0x64] = .ok ⟨[0x2D], 0x01, [0x64, 0x00]⟩ ∧
  decodeFrame [0x3E, 0xA8, 0x01, 0x08, 0xEF, 0xFF, 0x9F, 0x66, 0xA8, 0x19, 0x33, 0xD3, 0x85, 0x50] =
    .ok ⟨[0x34, 0x35], 0x01, [0xFF, 0x9F, 0x66, 0xA8, 0x19, 0x33, 0xD3, 0x85]⟩

/-- R98, R113: a header matches one row, or both rows of `0xA8`, and then a word of the table answers both; a frame is none
of a row whose format does not have its length byte. Which of the two `decodeTableWord` answers is the model's convention
(assumption 4). -/
def Obligations.HeadersAreUnambiguous : Prop :=
  (∀ (h : BitVec 32) (r₁ r₂ : WireRow), r₁ ∈ rowsOfHeader h → r₂ ∈ rowsOfHeader h →
    r₁ = r₂ ∨ (r₁.word = 0x3EA80008 ∧ r₂.word = 0x3EA80008)) ∧
  (∀ w : Nat, w < 2 ^ 32 → BitVec.ofNat 32 w &&& 0xFFFF00FF = 0x3EA80008 →
    decodeTableRows 32 w = [.incposspd 0 0 0, .impedance 0 0 0 0 0 0]) ∧
  (∀ nbits w : Nat, decodeTableWord nbits w = (decodeTableRows nbits w).head?) ∧
  ∀ (f : List Byte) (v : FrameView), decodeFrame f = .ok v → ∀ c ∈ v.opsels,
    (v.payload = [] → 0x20 ≤ c.toNat ∧ c.toNat ≤ 0x2B ∨ 0x36 ≤ c.toNat ∧ c.toNat ≤ 0x38) ∧
    (v.payload ≠ [] → 0x2C ≤ c.toNat ∧ c.toNat ≤ 0x38)

/-- The frame of every wire command decodes to its axis id, its payload and its own selector; only `0xA8` leaves two
selectors (R90 to R93, R97, R98). -/
def Obligations.WireFramesDecodeBack : Prop :=
  ∀ (i : Instr) (a : Byte) (f : List Byte), encodeFrame a i = some (.ok f) →
    ∃ c p v, i.wire? = some (c, .ok p) ∧ decodeFrame f = .ok v ∧ v.axis = a ∧ v.payload = p ∧
      (v.opsels = [(encode i).opsel] ∨
        (v.opsels = [0x34, 0x35] ∧ ((encode i).opsel = 0x34 ∨ (encode i).opsel = 0x35)))

/-! ### Operand assembly -/

/-- R15: the rounding functions. -/
def Obligations.RoundingFunctions : Prop :=
  (∀ q : Rat, (floorQ q : Rat) ≤ q ∧ ∀ z : Int, (z : Rat) ≤ q → z ≤ floorQ q) ∧
  (∀ q : Rat, (0 ≤ q → truncQ q = floorQ q) ∧ (q ≤ 0 → truncQ q = -floorQ (-q))) ∧
  (∀ q : Rat, nearestUpQ q = floorQ (q + 1 / 2) ∧ |(nearestUpQ q : Rat) - q| ≤ 1 / 2 ∧
    ((nearestUpQ q : Rat) - q ≠ -(1 / 2))) ∧
  (∀ q : Rat, |(nearestEvenQ q : Rat) - q| ≤ 1 / 2 ∧
    (|(nearestEvenQ q : Rat) - q| = 1 / 2 → nearestEvenQ q % 2 = 0)) ∧
  (∀ x lo hi : Rat, clampQ x lo hi = if x < lo then lo else if x > hi then hi else x) ∧
  (∀ q : Rat, toInt q = toIntBy Config.scaleRound q ∧ toIntBy .trunc q = truncQ q ∧ toIntBy .floor q = floorQ q ∧
    toIntBy .nearestEven q = nearestEvenQ q ∧ toIntBy .nearestUp q = nearestUpQ q ∧
    qroundBy .halfEven q = nearestEvenQ q ∧ qroundBy .halfUp q = nearestUpQ q)

/-- R99, R100: a scaled integer in range is the integer's two's complement, little-endian, and out of range it is
refused; a torque is clamped first, so that every torque has an encoding. -/
def Obligations.ScaledOperands : Prop :=
  (∀ (r : ScaleRound) (x : Rat),
     (if -2 ^ 31 ≤ toIntBy r (x * 100) ∧ toIntBy r (x * 100) ≤ 2 ^ 31 - 1 then
       ∃ pl, scaleI32By r x = .ok pl ∧ pl.length = 4 ∧ (BitVec.ofNat 32 (leNat pl)).toInt = toIntBy r (x * 100)
     else scaleI32By r x = .error .encodeRange) ∧
     (if -2 ^ 63 ≤ toIntBy r (x * 100) ∧ toIntBy r (x * 100) ≤ 2 ^ 63 - 1 then
       ∃ pl, scaleI64By r x = .ok pl ∧ pl.length = 8 ∧ (BitVec.ofNat 64 (leNat pl)).toInt = toIntBy r (x * 100)
     else scaleI64By r x = .error .encodeRange) ∧
     (if 0 ≤ toIntBy r (x * 100) ∧ toIntBy r (x * 100) ≤ 65535 then
       ∃ pl, scaleU16By r x = .ok pl ∧ pl.length = 2 ∧ (leNat pl : Int) = toIntBy r (x * 100)
     else scaleU16By r x = .error .encodeRange)) ∧
  ∀ (r : ScaleRound) (iq : Rat),
    -2047 ≤ toIntBy r (clampQ iq (-2047) 2047) ∧ toIntBy r (clampQ iq (-2047) 2047) ≤ 2047 ∧
    (torquePayloadBy r iq).length = 2 ∧
    (BitVec.ofNat 16 (leNat (torquePayloadBy r iq))).toInt = toIntBy r (clampQ iq (-2047) 2047) ∧
    (2047 ≤ iq → torquePayloadBy r iq = [0xFF, 0x07]) ∧ (iq ≤ -2047 → torquePayloadBy r iq = [0x01, 0xF8])

/-! ### Wire commands at the host port -/

/-- R150 to R162: the twelve commands without a payload; nothing but the axis id matters, in every phase.
That an unset axis id refuses an encode with ConfigError is the model's reading (assumption 26). -/
def Obligations.NoPayloadCommands : Prop :=
  ∀ (k : AxisIx) (s : State),
    (∀ a : Byte, s.usableId k = some a → 1 ≤ a.toNat → a.toNat ≤ 32 →
      Frames (.enable k) s [0x3E, 0x88, a, 0x00, 0x3E + 0x88 + a] ∧
      Frames (.disable k) s [0x3E, 0x80, a, 0x00, 0x3E + 0x80 + a] ∧
      Frames (.stop k) s [0x3E, 0x81, a, 0x00, 0x3E + 0x81 + a] ∧
      Frames (.clrerr k) s [0x3E, 0x9B, a, 0x00, 0x3E + 0x9B + a] ∧
      Frames (.zero k) s [0x3E, 0x19, a, 0x00, 0x3E + 0x19 + a] ∧
      Frames (.zero95 k) s [0x3E, 0x95, a, 0x00, 0x3E + 0x95 + a] ∧
      Frames (.clrturn k) s [0x3E, 0x93, a, 0x00, 0x3E + 0x93 + a] ∧
      Frames (.rdstat1 k) s [0x3E, 0x9A, a, 0x00, 0x3E + 0x9A + a] ∧
      Frames (.rdstat2 k) s [0x3E, 0x9C, a, 0x00, 0x3E + 0x9C + a] ∧
      Frames (.rdenc k) s [0x3E, 0x90, a, 0x00, 0x3E + 0x90 + a] ∧
      Frames (.rdmtang k) s [0x3E, 0x92, a, 0x00, 0x3E + 0x92 + a] ∧
      Frames (.rdstang k) s [0x3E, 0x94, a, 0x00, 0x3E + 0x94 + a]) ∧
    ((s.axis k).axisId = none →
      ∀ i ∈ [Instr.enable k, .disable k, .stop k, .clrerr k, .zero k, .zero95 k, .clrturn k, .rdstat1 k, .rdstat2 k,
        .rdenc k, .rdmtang k, .rdstang k], Refuses i s .config)

/-- R171, R180, R181, R182: the commands whose payload the host supplies. The model's readings: that an OPENLOOP without a payload is refused, and with which reason (assumption 19); that
an unset axis id refuses an encode with ConfigError (assumption 26), and before the payload is looked at (assumption 20). -/
def Obligations.RawPayloadCommands : Prop :=
  ∀ (k : AxisIx) (raw : List Byte) (s : State),
    (∀ a : Byte, s.usableId k = some a → 1 ≤ a.toNat → a.toNat ≤ 32 →
      (1 ≤ raw.length → raw.length ≤ 255 → Frames (.openloop k raw) s (frameBytes 0xA0 a raw)) ∧
      (raw.length ≤ 255 →
        Frames (.paramrd k raw) s (frameBytes 0x40 a raw) ∧
        Frames (.paramwrRam k raw) s (frameBytes 0x42 a raw) ∧
        Frames (.paramwrRom k raw) s (frameBytes 0x44 a raw)) ∧
      (raw = [] → Refuses (.openloop k raw) s .encodeRange) ∧
      (255 < raw.length →
        ∀ i ∈ [Instr.openloop k raw, .paramrd k raw, .paramwrRam k raw, .paramwrRom k raw], Refuses i s .encodeRange)) ∧
    ((s.axis k).axisId = none →
      ∀ i ∈ [Instr.openloop k raw, .paramrd k raw, .paramwrRam k raw, .paramwrRom k raw], Refuses i s .config)

/-- R172, R173, R174, R178: the commands with one scaled operand. That an unset axis id refuses an encode with ConfigError
is the model's reading (assumption 26), and that it does so before the operand's range is looked at the model's choice
(assumption 20). -/
def Obligations.ScalarCommands : Prop :=
  ∀ (k : AxisIx) (x : Rat) (s : State),
    (∀ a : Byte, s.usableId k = some a → 1 ≤ a.toNat → a.toNat ≤ 32 →
      Frames (.torque k x) s (frameBytes 0xA1 a (leInt 2 (toInt (clampQ x (-2047) 2047)))) ∧
      (if -2 ^ 31 ≤ toInt (x * 100) ∧ toInt (x * 100) ≤ 2 ^ 31 - 1 then
        Frames (.speed k x) s (frameBytes 0xA2 a (leInt 4 (toInt (x * 100)))) ∧
        Frames (.incpos k x) s (frameBytes 0xA7 a (leInt 4 (toInt (x * 100))))
      else Refuses (.speed k x) s .encodeRange ∧ Refuses (.incpos k x) s .encodeRange) ∧
      (if -2 ^ 63 ≤ toInt (x * 100) ∧ toInt (x * 100) ≤ 2 ^ 63 - 1 then
        Frames (.pos k x) s (frameBytes 0xA3 a (leInt 8 (toInt (x * 100))))
      else Refuses (.pos k x) s .encodeRange)) ∧
    ((s.axis k).axisId = none →
      ∀ i ∈ [Instr.torque k x, .speed k x, .incpos k x, .pos k x], Refuses i s .config)

/-- R175, R176, R177, R179: the commands whose payload has several parts, in their order. That an unset axis id refuses an
encode with ConfigError is the model's reading (assumption 26), and that it does so before the direction byte and the
ranges are looked at the model's choice (assumption 20). -/
def Obligations.CompoundCommands : Prop :=
  ∀ (k : AxisIx) (x w : Rat) (dir : Byte) (s : State),
    (∀ a : Byte, s.usableId k = some a → 1 ≤ a.toNat → a.toNat ≤ 32 →
      (if (-2 ^ 63 ≤ toInt (x * 100) ∧ toInt (x * 100) ≤ 2 ^ 63 - 1) ∧
          (-2 ^ 31 ≤ toInt (w * 100) ∧ toInt (w * 100) ≤ 2 ^ 31 - 1) then
        Frames (.posspd k x w) s (frameBytes 0xA4 a (leInt 8 (toInt (x * 100)) ++ leInt 4 (toInt (w * 100))))
      else Refuses (.posspd k x w) s .encodeRange) ∧
      (if (-2 ^ 31 ≤ toInt (x * 100) ∧ toInt (x * 100) ≤ 2 ^ 31 - 1) ∧
          (-2 ^ 31 ≤ toInt (w * 100) ∧ toInt (w * 100) ≤ 2 ^ 31 - 1) then
        Frames (.incposspd k x w) s (frameBytes 0xA8 a (leInt 4 (toInt (x * 100)) ++ leInt 4 (toInt (w * 100))))
      else Refuses (.incposspd k x w) s .encodeRange) ∧
      (if (dir = 0 ∨ dir = 1) ∧ 0 ≤ toInt (x * 100) ∧ toInt (x * 100) ≤ 65535 then
        Frames (.scpos k dir x) s (frameBytes 0xA5 a ([dir] ++ leInt 2 (toInt (x * 100)) ++ [0x00])) ∧
        (if -2 ^ 31 ≤ toInt (w * 100) ∧ toInt (w * 100) ≤ 2 ^ 31 - 1 then
          Frames (.scposspd k dir x w) s
            (frameBytes 0xA6 a ([dir] ++ leInt 2 (toInt (x * 100)) ++ [0x00] ++ leInt 4 (toInt (w * 100))))
        else Refuses (.scposspd k dir x w) s .encodeRange)
      else Refuses (.scpos k dir x) s .encodeRange ∧ Refuses (.scposspd k dir x w) s .encodeRange)) ∧
    ((s.axis k).axisId = none →
      ∀ i ∈ [Instr.posspd k x w, .incposspd k x w, .scpos k dir x, .scposspd k dir x w], Refuses i s .config)

/-! ### Response decoders -/

/-- R196, R197, R198: what the three decoders hand over, when they refuse, that they change nothing else, and that each
gives back the integers whose little-endian bytes it reads, at their offsets. -/
def Obligations.DecodersReadTheirFields : Prop :=
  (∀ o : Operands, decode ⟨0x08, o⟩ = .ok (.decMtang o.bs) ∧ decode ⟨0x09, o⟩ = .ok (.decStat2 o.bs) ∧
    decode ⟨0x0A, o⟩ = .ok (.decStang o.bs)) ∧
  (∀ (pl : List Byte) (s : State),
     (pl.length = 8 →
       exec (.decMtang pl) s =
         .next (s.answer (.ok (.angle64 (BitVec.ofNat 64 (memRead pl 0 8))
           (((BitVec.ofNat 64 (memRead pl 0 8)).toInt : Rat) / 100))))) ∧
     (pl.length ≠ 8 → Refuses (.decMtang pl) s .decodeLength) ∧
     (pl.length = 7 →
       exec (.decStat2 pl) s =
         .next (s.answer (.ok (.stat2
           { temp := BitVec.ofNat 8 (memRead pl 0 1), cur := BitVec.ofNat 16 (memRead pl 1 2),
             spd := BitVec.ofNat 16 (memRead pl 3 2), enc := BitVec.ofNat 16 (memRead pl 5 2) })))) ∧
     (pl.length ≠ 7 → Refuses (.decStat2 pl) s .decodeLength) ∧
     (pl.length = 4 →
       exec (.decStang pl) s =
         .next (s.answer (.ok (.angle32 (BitVec.ofNat 32 (memRead pl 0 4)) ((memRead pl 0 4 : Rat) / 100))))) ∧
     (pl.length ≠ 4 → Refuses (.decStang pl) s .decodeLength)) ∧
  (∀ x : BitVec 64, decMtang (leBytes 8 x.toNat) = some x) ∧
  (∀ x : BitVec 32, decStang (leBytes 4 x.toNat) = some x) ∧
  ∀ (temp : BitVec 8) (cur spd enc : BitVec 16),
    decStat2 (leBytes 1 temp.toNat ++ leBytes 2 cur.toNat ++ leBytes 2 spd.toNat ++ leBytes 2 enc.toNat) =
      some ⟨temp, cur, spd, enc⟩

/-! ### The quantizer and the impedance payload -/

/-- R211: the value, its register, and the two refusals. -/
def Obligations.QuantComputes : Prop :=
  (∀ o : Operands, decode ⟨0x0C, o⟩ = .ok (.quant o.q0 o.q1 o.q2 o.n)) ∧
  ∀ (x mn mx : Rat) (bits : Nat) (s : State),
    (mn < mx → 1 ≤ bits → bits ≤ 16 →
      ∃ r : Nat, r ≤ 2 ^ bits - 1 ∧
        (r : Int) = qroundBy Config.qroundTie ((clampQ x mn mx - mn) * (2 ^ bits - 1) / (mx - mn)) ∧
        exec (.quant x mn mx bits) s =
          .next ({ s with qout := BitVec.ofNat 16 r }.answer (.ok (.word (BitVec.ofNat 16 r))))) ∧
    (¬ mn < mx ∨ bits < 1 ∨ 16 < bits → Refuses (.quant x mn mx bits) s .quantRange)

/-- R213, under either tie rule, and the ends of the range (R212(a)). -/
def Obligations.QuantMonotoneAndBounded : Prop :=
  ∀ (tie : QRoundTie) (mn mx : Rat) (bits : Nat), mn < mx → 1 ≤ bits → bits ≤ 16 →
    (∀ x : Rat, quantBy tie x mn mx bits ≤ 2 ^ bits - 1) ∧
    (∀ x₁ x₂ : Rat, x₁ ≤ x₂ → quantBy tie x₁ mn mx bits ≤ quantBy tie x₂ mn mx bits) ∧
    ∀ x : Rat, (x ≤ mn → quantBy tie x mn mx bits = 0) ∧ (mx ≤ x → quantBy tie x mn mx bits = 2 ^ bits - 1)

/-- R214, under either tie rule. -/
def Obligations.DequantWithinHalfStep : Prop :=
  ∀ (tie : QRoundTie) (x mn mx : Rat) (bits : Nat), mn < mx → 1 ≤ bits → bits ≤ 16 → mn ≤ x → x ≤ mx →
    |x - dequant (quantBy tie x mn mx bits) mn mx bits| ≤ (mx - mn) / (2 * (2 ^ bits - 1))

/-- R218, R222: the bytes of `le_packed`, nibble by nibble, and that unpacking is its inverse both ways. That it is the layout
the block uses is the spec's decision D7, which the model takes as a definition (assumption 16). -/
def Obligations.LePackedLayout : Prop :=
  Config.impLayout = .lePacked ∧
  (∀ f : ImpFields, packBy .lePacked f =
     [ f.p.extractLsb' 4 4 ++ f.p.extractLsb' 0 4, f.p.extractLsb' 12 4 ++ f.p.extractLsb' 8 4,
       f.v.extractLsb' 4 4 ++ f.v.extractLsb' 0 4, f.kp.extractLsb' 0 4 ++ f.v.extractLsb' 8 4,
       f.kp.extractLsb' 8 4 ++ f.kp.extractLsb' 4 4, f.kd.extractLsb' 4 4 ++ f.kd.extractLsb' 0 4,
       f.t.extractLsb' 0 4 ++ f.kd.extractLsb' 8 4, f.t.extractLsb' 8 4 ++ f.t.extractLsb' 4 4 ]) ∧
  (∀ f : ImpFields, unpackLe (packBy .lePacked f) = f) ∧
  ∀ pl : List Byte, pl.length = 8 → packBy .lePacked (unpackLe pl) = pl

/-- R216, R217: the five fields are the quantizer's values, the payload of 8 bytes goes to `IMPBUF`, and no operand is
refused. That nothing else changes, `QOUT` among the rest, is the model's reading (assumption 35). -/
def Obligations.ImppackQuantizesAndPacks : Prop :=
  (∀ o : Operands, decode ⟨0x0D, o⟩ = .ok (.imppack o.q0 o.q1 o.q2 o.q3 o.q4)) ∧
  ∀ (p v kp kd t : Rat) (s : State),
    ∃ f : ImpFields,
      f.p.toNat = quantBy Config.qroundTie p (-360) 360 16 ∧
      f.v.toNat = quantBy Config.qroundTie v (-2000) 2000 12 ∧
      f.kp.toNat = quantBy Config.qroundTie kp 0 500 12 ∧
      f.kd.toNat = quantBy Config.qroundTie kd 0 5 12 ∧
      f.t.toNat = quantBy Config.qroundTie t (-33) 33 12 ∧
      (packBy Config.impLayout f).length = 8 ∧
      exec (.imppack p v kp kd t) s =
        .next ({ s with impbuf := packBy Config.impLayout f }.answer (.ok (.bytes (packBy Config.impLayout f))))

/-- R220 at the host port: the frame is sent after a discard, nothing is read, a failed write becomes one record, and
the axis's other registers stand; meanwhile bytes may arrive on every channel and time may pass. That the frame also stands
in the host's `TXBUF` and the payload in `IMPBUF` is the model's choice (assumption 18), and that `QOUT` stands its reading
(assumption 35); that the operation is one step is assumption 6. -/
def Obligations.ImpedanceSendsItsFrame : Prop :=
  ∀ (k : AxisIx) (p v kp kd t : Rat) (s : State) (a : Byte),
    s.busy = false → s.usableId k = some a → 1 ≤ a.toNat → a.toNat ≤ 32 →
    ∃ u, exec (.impedance k p v kp kd t) s = .next u ∧
      u.port.result = .ok (.bytes (frameBytes 0xA8 a (impPayload p v kp kd t))) ∧
      u.host.txbuf = frameBytes 0xA8 a (impPayload p v kp kd t) ∧
      u.impbuf = impPayload p v kp kd t ∧ (impPayload p v kp kd t).length = 8 ∧
      (u.axis k).rxq = s.drawLink.1.arrive ∧ u.now = s.now + s.drawLink.1.dt ∧
      (match s.drawLink.1.sent with
        | none =>
          (u.axis k).txh = (s.axis k).txh ++ frameBytes 0xA8 a (impPayload p v kp kd t) ∧ u.rlog = s.rlog
        | some j =>
          (u.axis k).txh = (s.axis k).txh ++ (frameBytes 0xA8 a (impPayload p v kp kd t)).take j ∧
          ∃ site, u.rlog = s.rlog ++ [.err 0 k site .transport]) ∧
      (∀ j, j ≠ k → Receives (s.axis j) (u.axis j)) ∧
      u.axis k = { s.axis k with rxq := (u.axis k).rxq, txh := (u.axis k).txh, codec := (u.axis k).codec } ∧
      u =
        { s with
          axes := u.axes
          host := { s.host with txbuf := u.host.txbuf, st := u.host.st }
          impbuf := u.impbuf
          rlog := u.rlog
          now := u.now
          links := u.links
          drawn := u.drawn
          port := { s.port with result := u.port.result } }

/-! ### The device session -/

/-- R231, R233, R64, R65, R66: the steps of TRANSACT in their order, for every draw of the channel, and all it changes; bytes
may arrive on every channel between its primitives, and it takes the time of the write and at most `T_READ`. That the operation is one step is the model's choice (assumption 6). -/
def Obligations.TransactFollowsItsSteps : Prop :=
  ∀ (k : AxisIx) (c : Byte) (p : List Byte) (n : Nat) (s : State) (a : Byte),
    s.busy = false → s.usableId k = some a → 1 ≤ a.toNat → a.toNat ≤ 32 → p.length ≤ 255 →
    (0 < n → s.tRead.isSome = true) →
    ∀ (d₁ d₂ : LinkDraw), d₁ = s.drawLink.1 → d₂ = s.drawLink.2.drawLink.1 →
    ∃ u, exec (.transact k c p n) s = .next u ∧
      (match d₁.sent with
        | some j =>
          u.port.result = .err .transport ∧ (u.axis k).rxq = d₁.arrive ∧ u.now = s.now + d₁.dt ∧
            (u.axis k).txh = (s.axis k).txh ++ (frameBytes c a p).take j
        | none =>
          (u.axis k).txh = (s.axis k).txh ++ frameBytes c a p ∧
            (if n = 0 then
              u.port.result = .ok (.bytes []) ∧ (u.axis k).rxq = d₁.arrive ∧ u.now = s.now + d₁.dt
            else
              ∃ T, s.tRead = some T ∧ u.now ≤ s.now + d₁.dt + T ∧
                (if d₂.readFails = true then
                  u.port.result = .err .transport ∧ (u.axis k).rxq = d₁.arrive ++ d₂.arrive ∧
                    u.now = s.now + d₁.dt + min d₂.dt T
                else if n ≤ (d₁.arrive ++ d₂.arrive).length then
                  (u.axis k).rxq = (d₁.arrive ++ d₂.arrive).drop n ∧ u.now = s.now + d₁.dt + min d₂.dt T ∧
                    u.port.result =
                      (match validateFrame ((d₁.arrive ++ d₂.arrive).take n) n with
                        | .ok q => .ok (.bytes q)
                        | .error e => .err e)
                else
                  u.port.result = .err .timeout ∧ (u.axis k).rxq = [] ∧ u.now = s.now + d₁.dt + T))) ∧
      (∀ j, j ≠ k → Receives (s.axis j) (u.axis j)) ∧
      u.axis k = { s.axis k with rxq := (u.axis k).rxq, txh := (u.axis k).txh, codec := (u.axis k).codec } ∧
      u =
        { s with
          axes := u.axes
          links := u.links
          drawn := u.drawn
          now := u.now
          port := { s.port with result := u.port.result } }

/-- R300, R332, R232(h): when an operation that uses a channel is refused, and that nothing else changes but for the
discard that comes before BUILD's refusal (R232(h); R296's "no state" is read of BUILD: assumption 25). That IMPEDANCE is one
of them is the model's choice (assumption 18), and so is the order of two grounds: phase, configuration, ranges (assumption
20). -/
def Obligations.ChannelOperationRefusals : Prop :=
  ∀ (k : AxisIx) (c : Byte) (p : List Byte) (n : Nat) (x v kp kd t : Rat) (s : State),
    (s.busy = true →
      ∀ i ∈ [Instr.transact k c p n, .fireforget k c p, .refresh k, .impedance k x v kp kd t, .computePd, .run],
        Refuses i s .busy) ∧
    (s.busy = false → (s.axis k).axisId = none →
      ∀ i ∈ [Instr.transact k c p n, .fireforget k c p, .refresh k, .impedance k x v kp kd t], Refuses i s .config) ∧
    (s.busy = false → s.tRead = none → 0 < n →
      Refuses (.transact k c p n) s .config ∧ Refuses (.refresh k) s .config) ∧
    (s.busy = false → 255 < p.length → ∀ a, s.usableId k = some a →
      (n = 0 ∨ s.tRead.isSome = true →
        exec (.transact k c p n) s = .next ((chDiscard s k).answer (.refused .encodeRange))) ∧
      exec (.fireforget k c p) s = .next ((chDiscard s k).answer (.refused .encodeRange)))

/-- R234 at the host port: no error reaches the caller, a failed write becomes one record with tick 0 (its site is a
free value, assumption 17), and nothing is read; meanwhile bytes may arrive on every channel and time may pass. That the
operation is one step is the model's choice (assumption 6). -/
def Obligations.FireforgetSendsAndReports : Prop :=
  ∀ (k : AxisIx) (c : Byte) (p : List Byte) (s : State) (a : Byte),
    s.busy = false → s.usableId k = some a → 1 ≤ a.toNat → a.toNat ≤ 32 → p.length ≤ 255 →
    ∃ u, exec (.fireforget k c p) s = .next u ∧ u.port.result = .ok .unit ∧
      (u.axis k).rxq = s.drawLink.1.arrive ∧ u.now = s.now + s.drawLink.1.dt ∧
      (match s.drawLink.1.sent with
        | none => (u.axis k).txh = (s.axis k).txh ++ frameBytes c a p ∧ u.rlog = s.rlog
        | some j =>
          (u.axis k).txh = (s.axis k).txh ++ (frameBytes c a p).take j ∧
            ∃ site, u.rlog = s.rlog ++ [.err 0 k site .transport]) ∧
      (∀ j, j ≠ k → Receives (s.axis j) (u.axis j)) ∧
      u.axis k = { s.axis k with rxq := (u.axis k).rxq, txh := (u.axis k).txh, codec := (u.axis k).codec } ∧
      u =
        { s with
          axes := u.axes
          rlog := u.rlog
          now := u.now
          links := u.links
          drawn := u.drawn
          port := { s.port with result := u.port.result } }

/-- R240: REFRESH is its two transactions, then one group update, or the catcher with one record; no error reaches
the caller. -/
def Obligations.RefreshRunsTwoTransactions : Prop :=
  ∀ (k : AxisIx) (s : State) (a : Byte),
    s.busy = false → s.usableId k = some a → 1 ≤ a.toNat → a.toNat ≤ 32 → s.tRead.isSome = true →
    (∀ (c : Byte) (p : List Byte) (n : Nat),
      exec (.transact k c p n) s =
        .next ((hostTransact s k c p n).2.answer (hostTransact s k c p n).1.toResult)) ∧
    ∃ u, exec (.refresh k) s = .next u ∧
      match hostTransact s k 0x92 [] 14 with
      | (.refused _, _) => False
      | (.err e, s1) =>
        u = ((s1.setGroup k none).report (.err s.ticks k .refreshAngle e)).answer (.ok .unit)
      | (.ok p1, s1) =>
        match hostTransact s1 k 0x9C [] 13 with
        | (.refused _, _) => False
        | (.err e, s2) =>
          u = ((s2.setGroup k none).report (.err s.ticks k .refreshStatus e)).answer (.ok .unit)
        | (.ok p2, s2) =>
          ∃ raw r, decMtang p1 = some raw ∧ decStat2 p2 = some r ∧
            u = (s2.setGroup k (some (raw, r.spd, r.cur))).answer (.ok .unit)

/-- R241: whatever the device answers, a REFRESH of the host sets all three fields, or clears all three with exactly one
record, or is refused and changes none; and on another axis bytes may arrive meanwhile, and nothing
else happens. -/
def Obligations.RefreshIsAllOrNothing : Prop :=
  ∀ (k : AxisIx) (s u : State), exec (.refresh k) s = .next u →
    ((u.port.result = .ok .unit ∧ (u.axis k).data.isSome = true ∧ u.rlog = s.rlog) ∨
      (u.port.result = .ok .unit ∧ (u.axis k).group = (none, none, none) ∧
        ∃ site e, (site = .refreshAngle ∨ site = .refreshStatus) ∧ u.rlog = s.rlog ++ [.err s.ticks k site e]) ∨
      ((∃ r, u.port.result = .refused r) ∧ (u.axis k).group = (s.axis k).group ∧ u.rlog = s.rlog)) ∧
    (∀ j, j ≠ k → Receives (s.axis j) (u.axis j)) ∧
    u.axis k =
      { s.axis k with
        rxq := (u.axis k).rxq, txh := (u.axis k).txh, codec := (u.axis k).codec,
        pos := (u.axis k).pos, vel := (u.axis k).vel, trq := (u.axis k).trq } ∧
    u =
      { s with
        axes := u.axes
        rlog := u.rlog
        now := u.now
        links := u.links
        drawn := u.drawn
        port := { s.port with result := u.port.result } }

/-- R242. That it is never refused, with an unset axis id or an index at or above `NAX` either, is the model's reading against
the general sentence of R26 (assumption 21). -/
def Obligations.IsvalidReadsTheGroup : Prop :=
  (∀ o : Operands, decode ⟨0x13, o⟩ = .ok (.isvalid o.k)) ∧
  ∀ (k : AxisIx) (s : State), ∃ b : Bool,
    (b = true ↔ (s.axis k).pos.isSome = true ∧ (s.axis k).vel.isSome = true ∧ (s.axis k).trq.isSome = true) ∧
    (AtomicGroup s → (b = true ↔ (s.axis k).pos ≠ none)) ∧
    exec (.isvalid k) s = .next (s.answer (.ok (.bit b)))

/-- R243: AxisState changes only in a REFRESH of the host, or in a move of the axis's own worker in the refresh phase. -/
def Obligations.OnlyRefreshWritesAxisState : Prop :=
  ∀ (s t : State) (k : AxisIx), step s = .next t → (t.axis k).group ≠ (s.axis k).group →
    (s.port.start = true ∧ decode s.placed = .ok (.refresh k) ∧ s.busy = false) ∨
    (s.port.start = false ∧ s.drawEvent.1 = .worker k ∧ s.phase = .refresh ∧ s.active k = true)

/-! ### Frames of the operations of the host port -/

/-- The operations that touch only the host codec instance and the result registers complete in every state and every
phase, and change nothing else (R300, R49). That IMPPACK leaves `QOUT`, beside which R49's row names it, is the model's
reading (assumption 35), and that ISVALID is among them whatever the configuration too (assumption 21). -/
def Obligations.CodecOperationsStayInside : Prop :=
  ∀ (k : AxisIx) (s : State) (b c a : Byte) (raw : List Byte) (n : Nat) (q₀ q₁ q₂ q₃ q₄ : Rat),
    (∀ i ∈ [Instr.enable k, .disable k, .stop k, .clrerr k, .zero k, .zero95 k, .clrturn k, .rdstat1 k, .rdstat2 k,
        .rdenc k, .rdmtang k, .rdstang k, .openloop k raw, .torque k q₀, .speed k q₀, .pos k q₀, .posspd k q₀ q₁,
        .scpos k b q₀, .scposspd k b q₀ q₁, .incpos k q₀, .incposspd k q₀ q₁, .paramrd k raw, .paramwrRam k raw,
        .paramwrRom k raw, .build c a raw],
      ∃ u, exec i s = .next u ∧
        u = { s with
              host := { s.host with txbuf := u.host.txbuf, st := u.host.st }
              port := { s.port with result := u.port.result } }) ∧
    (∃ u, exec (.validate n) s = .next u ∧
      u = { s with host := { s.host with st := u.host.st }, port := { s.port with result := u.port.result } }) ∧
    (∀ i ∈ [Instr.csumRd, .csum8 raw, .decMtang raw, .decStat2 raw, .decStang raw, .isvalid k],
      ∃ u, exec i s = .next u ∧ u = { s with port := { s.port with result := u.port.result } }) ∧
    (∀ i ∈ [Instr.csumClr, .csumAdd b],
      ∃ u, exec i s = .next u ∧ u = { s with acc := u.acc, port := { s.port with result := u.port.result } }) ∧
    (∃ u, exec (.quant q₀ q₁ q₂ n) s = .next u ∧
      u = { s with qout := u.qout, port := { s.port with result := u.port.result } }) ∧
    (∃ u, exec (.imppack q₀ q₁ q₂ q₃ q₄) s = .next u ∧
      u = { s with impbuf := u.impbuf, port := { s.port with result := u.port.result } })

/-- The operations that use a channel answer a next state always, and leave every register but those of the channel,
AxisState (REFRESH only), the report log and, for IMPEDANCE, its two buffers (R49, R67); on the other channels bytes may
arrive meanwhile (R66). What IMPEDANCE writes at the host port is the model's reading (assumptions 18, 35). -/
def Obligations.ChannelOperationsStayOnTheirAxis : Prop :=
  ∀ (k : AxisIx) (c : Byte) (p : List Byte) (n : Nat) (q₀ q₁ q₂ q₃ q₄ : Rat) (s : State),
    ∀ i ∈ [Instr.transact k c p n, .fireforget k c p, .refresh k, .impedance k q₀ q₁ q₂ q₃ q₄],
      ∃ u, exec i s = .next u ∧
        (∀ j, j ≠ k → Receives (s.axis j) (u.axis j)) ∧
        u.axis k =
          { s.axis k with
            rxq := (u.axis k).rxq, txh := (u.axis k).txh, codec := (u.axis k).codec,
            pos := (u.axis k).pos, vel := (u.axis k).vel, trq := (u.axis k).trq } ∧
        (i ≠ .refresh k → (u.axis k).group = (s.axis k).group) ∧
        (i ≠ .impedance k q₀ q₁ q₂ q₃ q₄ → u.host = s.host ∧ u.impbuf = s.impbuf) ∧
        (s.axis k).txh <+: (u.axis k).txh ∧ s.rlog <+: u.rlog ∧ s.now ≤ u.now ∧
        u =
          { s with
            axes := u.axes
            host := u.host
            impbuf := u.impbuf
            rlog := u.rlog
            now := u.now
            links := u.links
            drawn := u.drawn
            port := { s.port with result := u.port.result } }

/-! ### The control law, RUN and CANCEL -/

/-- R262, R263, R264 at the host port: both torques in one update, each the clipped law, and opposite to each other; and
the precondition error and the refusal, which change nothing. Which registers are the parameters whose absence refuses it,
and that they are looked at before validity, is the model's reading (assumption 31). -/
def Obligations.ComputePdAtTheHostPort : Prop :=
  (∀ (s : State) (kp kd limit : Rat) (p₀ p₁ : BitVec 64) (v₀ v₁ t₀ t₁ : BitVec 16),
     s.busy = false → s.nax = some 2 → s.kp = some kp → s.kd = some kd → s.limit = some limit → 0 ≤ limit →
     (s.axis 0).group = (some p₀, some v₀, some t₀) → (s.axis 1).group = (some p₁, some v₁, some t₁) →
     ∀ u₀ u₁ : Rat,
       u₀ = kp * ((p₁.toInt : Rat) / 100 - (p₀.toInt : Rat) / 100) + kd * ((v₁.toInt : Rat) / 100 - (v₀.toInt : Rat) / 100) →
       u₁ = kp * ((p₀.toInt : Rat) / 100 - (p₁.toInt : Rat) / 100) + kd * ((v₀.toInt : Rat) / 100 - (v₁.toInt : Rat) / 100) →
       u₁ = -u₀ ∧ clampQ u₁ (-limit) limit = -clampQ u₀ (-limit) limit ∧
       ∃ u, exec .computePd s = .next u ∧
         u.axis 0 = { s.axis 0 with tq := some (clampQ u₀ (-limit) limit) } ∧
         u.axis 1 = { s.axis 1 with tq := some (clampQ u₁ (-limit) limit) } ∧
         (∀ j, j ≠ 0 → j ≠ 1 → u.axis j = s.axis j) ∧
         u =
           { s with
             axes := u.axes
             port := { s.port with
               result := .ok (.torques (clampQ u₀ (-limit) limit) (clampQ u₁ (-limit) limit)) } }) ∧
  (∀ o : Operands, decode ⟨0x14, o⟩ = .ok .computePd) ∧
  ∀ s : State, s.busy = false →
    (s.nax ≠ some 2 ∨ s.kp = none ∨ s.kd = none ∨ s.limit = none → Refuses .computePd s .config) ∧
    (s.nax = some 2 → s.kp.isSome = true → s.kd.isSome = true → s.limit.isSome = true →
      (s.axis 0).valid = false ∨ (s.axis 1).valid = false →
      exec .computePd s = .next (s.answer (.err .controlPrecondition)))

/-- R251, R252: what RUN requires, what it writes, and its two refusals; `Startup` begins at the enable of axis 0 (the place in
the sequence is a register of the model's own, assumption 8). -/
def Obligations.RunStartsOrRefuses : Prop :=
  (∀ o : Operands, decode ⟨0x18, o⟩ = .ok .run) ∧
  ∀ s : State,
    (s.phase ≠ .idle → s.phase ≠ .halted → Refuses .run s .busy) ∧
    (s.phase = .idle ∨ s.phase = .halted →
      (if (∃ n, s.nax = some n ∧ (∀ k : AxisIx, k.val < n → (s.axis k).axisId.isSome = true) ∧
            (s.mode = .pd → n = 2)) ∧
          s.kp.isSome = true ∧ s.kd.isSome = true ∧ s.limit.isSome = true ∧ s.period.isSome = true ∧
          s.tRead.isSome = true then
        exec .run s =
          .next ({ s with cancel := false, ticks := 0, phase := .startup, seqAxis := 0, seqStep := .enable }.answer
            (.ok .unit))
      else Refuses .run s .config))

/-- R274, R278, R301: CANCEL sets its flag in every phase; `Between` is where it is looked at, and from there `Shutdown` begins
at axis 0 (the place is a register of the model's own, assumption 8); outside `Between` no move of the sequencer or of a
worker depends on it or changes it. -/
def Obligations.CancelIsLatchedUntilBetween : Prop :=
  (∀ o : Operands, decode ⟨0x19, o⟩ = .ok .cancel) ∧
  (∀ s : State, exec .cancel s = .next ({ s with cancel := true }.answer (.ok .unit))) ∧
  (∀ s : State, s.phase = .between →
     sequencerMove s =
       .next (if s.cancel = true then { s with phase := .shutdown, seqAxis := 0 } else { s with phase := .tickStart })) ∧
  ∀ (s : State) (b : Bool) (k : AxisIx) (r : Setpoint),
    (sampleMove s k r).cancel = s.cancel ∧ sampleMove { s with cancel := b } k r = { sampleMove s k r with cancel := b } ∧
    (s.phase ≠ .between →
      match sequencerMove s with
      | .next t => t.cancel = s.cancel ∧ sequencerMove { s with cancel := b } = .next { t with cancel := b }
      | .fault f => sequencerMove { s with cancel := b } = .fault f
      | .refused r => sequencerMove { s with cancel := b } = .refused r) ∧
    (match workerMove s k with
      | .next t => t.cancel = s.cancel ∧ workerMove { s with cancel := b } k = .next { t with cancel := b }
      | .fault f => workerMove { s with cancel := b } k = .fault f
      | .refused r => workerMove { s with cancel := b } k = .refused r)

/-! ### The host's registers -/

/-- R309: the write window, the illegal values, and what a legal write does. That a write hands over a result of its own at
the port is the model's reading (assumption 40); the types of `CH_ADDR` and `BAUD` are its choice (assumption 12). That
`T_READ` = 0 is illegal is its reading of D26 (assumption 22) and is not part of this statement. -/
def Obligations.ConfigurationWriteWindow : Prop :=
  ∀ (s : State) (k : AxisIx) (n : Nat) (v : Byte) (q : Rat) (m : Mode) (mask : BitVec 32),
    (s.busy = true →
      ∀ w ∈ [RegWrite.nax n, .axisId k v, .kp q, .kd q, .limit q, .period n, .tRead n, .mode m, .required mask,
          .chAddr k n, .baud k n],
        agentMove (.write w) s = .next (s.answer (.refused .busy))) ∧
    (s.busy = false →
      (n < 1 ∨ 32 < n → agentMove (.write (.nax n)) s = .next (s.answer (.refused .config))) ∧
      (v.toNat < 1 ∨ 32 < v.toNat → agentMove (.write (.axisId k v)) s = .next (s.answer (.refused .config))) ∧
      (q < 0 → agentMove (.write (.limit q)) s = .next (s.answer (.refused .config))) ∧
      (n = 0 → agentMove (.write (.period n)) s = .next (s.answer (.refused .config))) ∧
      (1 ≤ n → n ≤ 32 → agentMove (.write (.nax n)) s = .next ({ s with nax := some n }.answer (.ok .unit))) ∧
      (1 ≤ v.toNat → v.toNat ≤ 32 → agentMove (.write (.axisId k v)) s =
        .next ((s.modAxis k fun a => { a with axisId := some v }).answer (.ok .unit))) ∧
      (0 ≤ q → agentMove (.write (.limit q)) s = .next ({ s with limit := some q }.answer (.ok .unit))) ∧
      (1 ≤ n → agentMove (.write (.period n)) s = .next ({ s with period := some n }.answer (.ok .unit)) ∧
        agentMove (.write (.tRead n)) s = .next ({ s with tRead := some n }.answer (.ok .unit))) ∧
      agentMove (.write (.kp q)) s = .next ({ s with kp := some q }.answer (.ok .unit)) ∧
      agentMove (.write (.kd q)) s = .next ({ s with kd := some q }.answer (.ok .unit)) ∧
      agentMove (.write (.mode m)) s = .next ({ s with mode := m }.answer (.ok .unit)) ∧
      agentMove (.write (.required mask)) s = .next ({ s with required := mask }.answer (.ok .unit)) ∧
      agentMove (.write (.chAddr k n)) s =
        .next ((s.modAxis k fun a => { a with chAddr := some n }).answer (.ok .unit)) ∧
      agentMove (.write (.baud k n)) s =
        .next ((s.modAxis k fun a => { a with baud := some n }).answer (.ok .unit)))

/-- R46, R24, R75, R31, R37, R49, R66, R317: setpoint writes and the filling of `RXBUF` in every phase, register reads, each
with the value it hands over and without a side effect, and bytes that arrive at the end of `RXQ[k]`. The model's choices:
which registers a read shows (assumption 32), that every write and read hands over a result (assumption 40), that an early
read of `T_START`, `T_END` or `ELAPSED` hands over what the register holds where U13 asks for a fault (assumption 9), that
`ELAPSED` is some free number inside a tick (assumption 39), and the bound of `RXBUF` (assumption 23). -/
def Obligations.AnytimeHostAndDeviceMoves : Prop :=
  ∀ (s : State) (k : AxisIx) (q : Rat) (bytes : List Byte),
    agentMove (.write (.pDes k q)) s = .next ((s.modAxis k fun a => { a with pDes := q }).answer (.ok .unit)) ∧
    agentMove (.write (.vDes k q)) s = .next ((s.modAxis k fun a => { a with vDes := q }).answer (.ok .unit)) ∧
    agentMove (.write (.tFf k q)) s = .next ((s.modAxis k fun a => { a with tFf := q }).answer (.ok .unit)) ∧
    agentMove (.write (.rxbuf bytes)) s =
      .next (if bytes.length ≤ 261 then { s with host := { s.host with rxbuf := bytes } }.answer (.ok .unit)
        else s.answer (.refused .config)) ∧
    (∀ r v, (r, v) ∈ ([
        (.txbuf, .bytes s.host.txbuf), (.rxbuf, .bytes s.host.rxbuf), (.qout, .word s.qout), (.impbuf, .bytes s.impbuf),
        (.axisId k, .optByte (s.axis k).axisId), (.chAddr k, .optNat (s.axis k).chAddr), (.baud k, .optNat (s.axis k).baud),
        (.life k, .life (s.axis k).life), (.tq k, .optRat (s.axis k).tq), (.wstep k, .wstep (s.axis k).wstep),
        (.pDes k, .rat (s.axis k).pDes), (.vDes k, .rat (s.axis k).vDes), (.tFf k, .rat (s.axis k).tFf),
        (.phase, .phase s.phase), (.ticks, .nat s.ticks), (.tStart, .nat s.tStart), (.tEnd, .nat s.tEnd),
        (.overrun, .bit s.overrun), (.cancel, .bit s.cancel), (.skip, .bit s.skip), (.kp, .optRat s.kp),
        (.kd, .optRat s.kd), (.limit, .optRat s.limit), (.period, .optNat s.period), (.tRead, .optNat s.tRead),
        (.mode, .mode s.mode), (.nax, .optNat s.nax), (.required, .mask s.required),
        (.rlog, .log s.rlog)] : List (RegSel × Value)) →
      agentMove (.read r) s = .next (s.answer (.ok v))) ∧
    (∀ p v t, (s.axis k).group = (some p, some v, some t) →
      agentMove (.read (.axisState k)) s = .next (s.answer (.ok (.axisState (some (p, v, t)))))) ∧
    ((s.axis k).pos = none ∨ (s.axis k).vel = none ∨ (s.axis k).trq = none →
      agentMove (.read (.axisState k)) s = .next (s.answer (.ok (.axisState none)))) ∧
    (s.tStart ≤ s.tEnd → agentMove (.read .elapsed) s = .next (s.answer (.ok (.nat (s.tEnd - s.tStart))))) ∧
    (∃ n, agentMove (.read .elapsed) s = .next (s.answer (.ok (.nat n)))) ∧
    agentMove (.device k bytes) s = .next (s.modAxis k fun a => { a with rxq := a.rxq ++ bytes })

/-- Outside `Idle` and `Halted` no step changes a control parameter, a configuration register or the axis ids (R84). -/
def Obligations.ConfigurationIsImmutableInARun : Prop :=
  ∀ s t : State, step s = .next t → s.busy = true →
    t.nax = s.nax ∧ t.kp = s.kp ∧ t.kd = s.kd ∧ t.limit = s.limit ∧ t.period = s.period ∧ t.tRead = s.tRead ∧
    t.mode = s.mode ∧ t.required = s.required ∧
    ∀ k, (t.axis k).axisId = (s.axis k).axisId ∧ (t.axis k).chAddr = (s.axis k).chAddr ∧
      (t.axis k).baud = (s.axis k).baud

/-! ### The sequencer -/

/-- R250: the transition table. A step that changes the phase is one of its rows, made by the agent the row names. `Startup` and
`Shutdown` end when their place in the sequence, a register of the model's own (assumption 8), is past every axis; in a
well-kept state every axis is then enabled and zeroed (R255), and that place moves on only with the end of an axis's disable
attempt (ShutdownAttemptsEveryAxis). -/
def Obligations.PhaseTransitionsAreComplete : Prop :=
  ∀ s t : State, step s = .next t → t.phase ≠ s.phase →
    ((s.phase = .idle ∨ s.phase = .halted) ∧ t.phase = .startup ∧ s.port.start = true ∧
      decode s.placed = .ok .run ∧ s.configured = true) ∨
    (s.port.start = false ∧ s.drawEvent.1 = .sequencer ∧
      ((s.phase = .startup ∧ t.phase = .between ∧ s.currentAxis = none ∧
          (∀ k, s.active k = true → k.val < s.seqAxis) ∧
          (Inv s → ∀ k, s.active k = true → (s.axis k).life = .zeroed)) ∨
        (s.phase = .startup ∧ t.phase = .shutdown ∧
          ∃ k site e, s.currentAxis = some k ∧ t.rlog = s.rlog ++ [.err 0 k site e]) ∨
        (s.phase = .between ∧ t.phase = .shutdown ∧ s.cancel = true) ∨
        (s.phase = .between ∧ t.phase = .tickStart ∧ s.cancel = false) ∨
        (s.phase = .tickStart ∧ t.phase = .refresh) ∨
        (s.phase = .refresh ∧ t.phase = .check ∧ ∀ k, s.active k = true → (s.axis k).wstep = .done) ∨
        (s.phase = .check ∧ t.phase = .timing ∧ s.skipNeeded = true) ∨
        (s.phase = .check ∧ t.phase = .compute ∧ s.skipNeeded = false) ∨
        (s.phase = .compute ∧ t.phase = .dispatch) ∨
        (s.phase = .compute ∧ t.phase = .timing ∧ s.mode = .pd ∧
          ((s.axis 0).valid = false ∨ (s.axis 1).valid = false)) ∨
        (s.phase = .dispatch ∧ t.phase = .timing ∧ ∀ k, s.active k = true → (s.axis k).wstep = .done) ∨
        (s.phase = .timing ∧ t.phase = .sleep ∧ ∃ p, s.period = some p ∧ t.elapsed < p) ∨
        (s.phase = .timing ∧ t.phase = .between ∧ ∃ p, s.period = some p ∧ p ≤ t.elapsed) ∨
        (s.phase = .sleep ∧ t.phase = .between ∧ ∃ p, s.period = some p ∧ s.tStart + p ≤ s.now) ∨
        (s.phase = .shutdown ∧ t.phase = .halted ∧ s.currentAxis = none ∧
          ∀ k, s.active k = true → k.val < s.seqAxis)))

/-- R252 to R256: one move of `Startup` at axis `k`. It is a move of the step's TRANSACT: it discards and sends the frame of
0x88 or `ZERO_CMD`, or looks at the reply; while the transaction is in progress nothing else changes; when it answers ok,
`LIFE[k]` is written and the next step follows; when it fails, one record, and `Shutdown` from axis 0. Past the last axis every
axis becomes `Running` in one update. The registers that hold the place in the sequence, and the read in progress, are the
model's own (assumptions 7, 8). -/
def Obligations.StartupGoesAxisByAxis : Prop :=
  (Config.zeroCmd = .zero19 → zeroCmdId = 0x19) ∧ (Config.zeroCmd = .zero95 → zeroCmdId = 0x95) ∧
  ∀ s t : State, s.phase = .startup → sequencerMove s = .next t →
    (s.currentAxis = none →
      t = { s with axes := t.axes, phase := .between } ∧
      ∀ k, t.axis k = if s.active k = true then { s.axis k with life := .running } else s.axis k) ∧
    ∀ k, s.currentAxis = some k →
      (∀ a : Byte, (s.axis k).axisId = some a → 1 ≤ a.toNat → a.toNat ≤ 32 →
        ((s.axis k).wait ≠ none → s.tRead.isSome = true) →
        ∃ c r s1, c = (match s.seqStep with | .enable => 0x88 | .zero => zeroCmdId) ∧
          TransactMove k a c [] (replyLen c) s r s1 ∧
          match r, s.seqStep with
          | none, _ => t = s1
          | some (.ok _), .enable => t = { s1.modAxis k (fun x => { x with life := .enabled }) with seqStep := .zero }
          | some (.ok _), .zero =>
            t = { s1.modAxis k (fun x => { x with life := .zeroed }) with seqStep := .enable, seqAxis := s.seqAxis + 1 }
          | some (.err e), .enable =>
            t = { s1.report (.err 0 k .startupEnable e) with phase := .shutdown, seqAxis := 0 }
          | some (.err e), .zero =>
            t = { s1.report (.err 0 k .startupZero e) with phase := .shutdown, seqAxis := 0 }
          | some (.refused _), _ => False) ∧
      (∀ j, j ≠ k → t.axis j = s.axis j) ∧
      t.axis k =
        { s.axis k with
          rxq := (t.axis k).rxq, txh := (t.axis k).txh, codec := (t.axis k).codec, wait := (t.axis k).wait,
          life := (t.axis k).life } ∧
      ((t.phase = .startup ∧ (t.axis k).life = (s.axis k).life ∧ t.rlog = s.rlog ∧ t.seqAxis = s.seqAxis ∧
          t.seqStep = s.seqStep ∧ (t.axis k).wait.isSome = true) ∨
        (t.phase = .startup ∧ s.seqStep = .enable ∧ (t.axis k).life = .enabled ∧ t.rlog = s.rlog ∧
          t.seqAxis = s.seqAxis ∧ t.seqStep = .zero ∧ (t.axis k).wait = none) ∨
        (t.phase = .startup ∧ s.seqStep = .zero ∧ (t.axis k).life = .zeroed ∧ t.rlog = s.rlog ∧
          t.seqAxis = s.seqAxis + 1 ∧ t.seqStep = .enable ∧ (t.axis k).wait = none) ∨
        (t.phase = .shutdown ∧ (t.axis k).life = (s.axis k).life ∧ t.seqAxis = 0 ∧ (t.axis k).wait = none ∧
          ∃ e, t.rlog = s.rlog ++
            [.err 0 k (match s.seqStep with | .enable => .startupEnable | .zero => .startupZero) e]))

/-- R278: one move of `Shutdown` at axis `k`. It is a move of the axis's TRANSACT 0x80: it discards and sends the disable
frame, or looks at the reply; while the transaction is in progress nothing else changes; when it answers ok the axis is
`Disabled`, when it fails one record is made and `LIFE[k]` stands; in both cases the next axis follows, and past the last
one the block is `Halted`. The place in the sequence and the read in progress are the model's own registers (assumptions
7, 8). -/
def Obligations.ShutdownAttemptsEveryAxis : Prop :=
  ∀ s t : State, s.phase = .shutdown → sequencerMove s = .next t →
    (s.currentAxis = none → t = { s with phase := .halted }) ∧
    ∀ k, s.currentAxis = some k →
      (∀ a : Byte, (s.axis k).axisId = some a → 1 ≤ a.toNat → a.toNat ≤ 32 →
        ((s.axis k).wait ≠ none → s.tRead.isSome = true) →
        ∃ r s1, TransactMove k a 0x80 [] (replyLen 0x80) s r s1 ∧
          match r with
          | none => t = s1
          | some (.ok _) => t = { s1.modAxis k (fun x => { x with life := .disabled }) with seqAxis := s.seqAxis + 1 }
          | some (.err e) => t = { s1.report (.err s.ticks k .shutdownDisable e) with seqAxis := s.seqAxis + 1 }
          | some (.refused _) => False) ∧
      t.phase = .shutdown ∧ (∀ j, j ≠ k → t.axis j = s.axis j) ∧
      t.axis k =
        { s.axis k with
          rxq := (t.axis k).rxq, txh := (t.axis k).txh, codec := (t.axis k).codec, wait := (t.axis k).wait,
          life := (t.axis k).life } ∧
      ((t.seqAxis = s.seqAxis ∧ (t.axis k).life = (s.axis k).life ∧ t.rlog = s.rlog ∧
          (t.axis k).wait.isSome = true) ∨
        (t.seqAxis = s.seqAxis + 1 ∧ (t.axis k).life = .disabled ∧ t.rlog = s.rlog ∧ (t.axis k).wait = none) ∨
        (t.seqAxis = s.seqAxis + 1 ∧ (t.axis k).life = (s.axis k).life ∧ (t.axis k).wait = none ∧
          ∃ e, t.rlog = s.rlog ++ [.err s.ticks k .shutdownDisable e]))

/-- R257, R260: `TickStart`, and `Check`. -/
def Obligations.TickStartAndCheck : Prop :=
  (∀ s : State, s.phase = .tickStart →
     ∃ t, sequencerMove s = .next t ∧
       (∀ k, t.axis k = if s.active k = true then { s.axis k with tq := none, wstep := .t1 } else s.axis k) ∧
       t = { s with axes := t.axes, ticks := s.ticks + 1, tStart := s.now, skip := false, phase := .refresh }) ∧
  ∀ s : State, s.phase = .check →
    ((∃ k, s.active k = true ∧ s.required.getLsbD k.val = true ∧ (s.axis k).valid = false) →
      sequencerMove s = .next ({ s with skip := true, phase := .timing }.report (.skip s.ticks))) ∧
    ((∀ k, s.active k = true → s.required.getLsbD k.val = true → (s.axis k).valid = true) →
      sequencerMove s = .next { s with skip := false, phase := .compute })

/-- R259, R270: the two barriers; a worker that has not finished holds the phase, with nothing changed. -/
def Obligations.BarriersWaitForEveryWorker : Prop :=
  ∀ s : State,
    (s.phase = .refresh →
      ((∀ k, s.active k = true → (s.axis k).wstep = .done) → sequencerMove s = .next { s with phase := .check }) ∧
      ((∃ k, s.active k = true ∧ (s.axis k).wstep ≠ .done) → sequencerMove s = .next s)) ∧
    (s.phase = .dispatch →
      ((∀ k, s.active k = true → (s.axis k).wstep = .done) → sequencerMove s = .next { s with phase := .timing }) ∧
      ((∃ k, s.active k = true ∧ (s.axis k).wstep ≠ .done) → sequencerMove s = .next s))

/-- R261, R262, R266: `Compute` inside a tick, and the start of the dispatch phase, which sets `W_CMD` (assumption 27). -/
def Obligations.ComputeLeadsToDispatch : Prop :=
  ∀ s : State, s.phase = .compute →
    (s.mode = .imp →
      ∃ t, sequencerMove s = .next t ∧ t = { s with axes := t.axes, phase := .dispatch } ∧
        ∀ k, t.axis k = if s.active k = true then { s.axis k with wstep := .cmd } else s.axis k) ∧
    (s.mode = .pd → s.nax = some 2 → s.kp.isSome = true → s.kd.isSome = true → s.limit.isSome = true →
      ((s.axis 0).valid = false →
        sequencerMove s =
          .next ({ s with phase := .timing }.report (.err s.ticks 0 .compute .controlPrecondition))) ∧
      ((s.axis 0).valid = true → (s.axis 1).valid = false →
        sequencerMove s =
          .next ({ s with phase := .timing }.report (.err s.ticks 1 .compute .controlPrecondition))) ∧
      ((s.axis 0).valid = true → (s.axis 1).valid = true →
        ∃ t t₀ t₁, sequencerMove s = .next t ∧ t = { s with axes := t.axes, phase := .dispatch } ∧
          exec .computePd { s with phase := .idle } =
            .next (({ s with phase := .idle }.setTorques t₀ t₁).answer (.ok (.torques t₀ t₁))) ∧
          t.axis 0 = { s.axis 0 with tq := some t₀, wstep := .cmd } ∧
          t.axis 1 = { s.axis 1 with tq := some t₁, wstep := .cmd } ∧
          ∀ j, j ≠ 0 → j ≠ 1 → t.axis j = s.axis j))

/-- R271, R272: `Timing` and `Sleep`; equality counts as an overrun. -/
def Obligations.TimingAndSleep : Prop :=
  ∀ (s : State) (p : Nat), s.period = some p →
    (s.phase = .timing →
      (s.now - s.tStart < p →
        sequencerMove s = .next { s with tEnd := s.now, overrun := false, phase := .sleep }) ∧
      (p ≤ s.now - s.tStart →
        sequencerMove s =
          .next ({ s with tEnd := s.now, overrun := true, phase := .between }.report
            (.overrun s.ticks (s.now - s.tStart))))) ∧
    (s.phase = .sleep →
      (s.tStart + p ≤ s.now → sequencerMove s = .next { s with phase := .between }) ∧
      (s.now < s.tStart + p → sequencerMove s = .next s))

/-! ### Workers -/

/-- R65, R233, R313: the read of an agent ends by data, by failure or by time, and never short before `T_READ` has passed; and
time does not pass the instant at which a read in progress has lasted `T_READ`, but for that it passes as it is drawn. That
a read is a call time looked at again and again is the model's form (assumption 7). -/
def Obligations.AgentReadsEndByDataOrTime : Prop :=
  ∀ (s : State) (k : AxisIx) (n since T : Nat), s.tRead = some T →
    (s.drawLink.1.readFails = true →
      (agentRead s k n since).1 = some (.err .transport) ∧
      (agentRead s k n since).2.axis k = { s.axis k with wait := none }) ∧
    (s.drawLink.1.readFails = false → n ≤ (s.axis k).rxq.length →
      (agentRead s k n since).1 =
        some (match validateFrame ((s.axis k).rxq.take n) n with | .ok q => .ok q | .error e => .err e) ∧
      ((agentRead s k n since).2.axis k).rxq = (s.axis k).rxq.drop n ∧
      ((agentRead s k n since).2.axis k).wait = none) ∧
    (s.drawLink.1.readFails = false → (s.axis k).rxq.length < n → since + T ≤ s.now →
      (agentRead s k n since).1 = some (.err .timeout) ∧
      ((agentRead s k n since).2.axis k).rxq = [] ∧ ((agentRead s k n since).2.axis k).wait = none) ∧
    (s.drawLink.1.readFails = false → (s.axis k).rxq.length < n → s.now < since + T →
      (agentRead s k n since).1 = none ∧ (agentRead s k n since).2.axis k = s.axis k) ∧
    ChannelOnly k s (agentRead s k n since).2 ∧ (agentRead s k n since).2.now = s.now ∧
    ∀ dt : Nat, ∃ u, agentMove (.time dt) s = .next u ∧ u = { s with now := u.now } ∧ s.now ≤ u.now ∧
      u.now ≤ s.now + dt ∧
      (∀ j called, (s.axis j).wait = some called → s.now ≤ called + T → u.now ≤ called + T) ∧
      ((∀ j called, (s.axis j).wait = some called → s.now + dt ≤ called + T) → u.now = s.now + dt)

/-- R258, R240, R241: a move of a worker in the refresh phase. AxisState changes only with the last move, all three fields
at once, and a failure makes exactly one record and ends the worker. The move is one of the TRANSACT of 0x92 or of 0x9C; the
angle the first reply holds is kept, by no other move touched, until the update stores it with the speed and the current of
the second reply. That the angle is kept in a register of the worker, and the form of the moves, are the model's
(assumption 7). -/
def Obligations.RefreshWorkerIsAllOrNothing : Prop :=
  (∀ (s t : State) (k : AxisIx), step s = .next t → (t.axis k).held ≠ (s.axis k).held →
    s.port.start = false ∧ s.drawEvent.1 = .worker k ∧ s.phase = .refresh ∧ (s.axis k).wstep = .t1 ∧
      (t.axis k).wstep = .t2) ∧
  ∀ (s t : State) (k : AxisIx), s.phase = .refresh → s.active k = true → workerMove s k = .next t →
    (∀ a : Byte, (s.axis k).axisId = some a → 1 ≤ a.toNat → a.toNat ≤ 32 →
      ((s.axis k).wait ≠ none → s.tRead.isSome = true) →
      ((s.axis k).wstep = .t1 → ∃ r s1, TransactMove k a 0x92 [] 14 s r s1 ∧
        match r with
        | none => t = s1
        | some (.ok p) =>
          p.length = 8 ∧
            t = s1.modAxis k fun x => { x with held := BitVec.ofNat 64 (memRead p 0 8), wstep := .t2 }
        | some (.err e) =>
          t = ((s1.setGroup k none).report (.err s.ticks k .refreshAngle e)).modAxis k fun x => { x with wstep := .done }
        | some (.refused _) => False) ∧
      ((s.axis k).wstep = .t2 → ∃ r s1, TransactMove k a 0x9C [] 13 s r s1 ∧
        match r with
        | none => t = s1
        | some (.ok p) =>
          p.length = 7 ∧
            t = s1.modAxis k fun x =>
              { x with
                pos := some (s.axis k).held, vel := some (BitVec.ofNat 16 (memRead p 3 2)),
                trq := some (BitVec.ofNat 16 (memRead p 1 2)), wstep := .done }
        | some (.err e) =>
          t = ((s1.setGroup k none).report (.err s.ticks k .refreshStatus e)).modAxis k fun x => { x with wstep := .done }
        | some (.refused _) => False)) ∧
    (((t.axis k).group = (s.axis k).group ∧ t.rlog = s.rlog ∧
        ((t.axis k).wstep = (s.axis k).wstep ∨ ((s.axis k).wstep = .t1 ∧ (t.axis k).wstep = .t2))) ∨
    ((t.axis k).wstep = .done ∧ (t.axis k).group = (none, none, none) ∧
      ∃ site e, (((s.axis k).wstep = .t1 ∧ site = .refreshAngle) ∨ ((s.axis k).wstep = .t2 ∧ site = .refreshStatus)) ∧
        t.rlog = s.rlog ++ [.err s.ticks k site e]) ∨
    ((s.axis k).wstep = .t2 ∧ (t.axis k).wstep = .done ∧ t.rlog = s.rlog ∧
      ∃ vel trq, (t.axis k).group = (some (s.axis k).held, some vel, some trq)))

/-- R266, R269, R243 in mode PD: the first move of a dispatch worker discards and sends the frame of its torque; a later one
looks at the reply. While the transaction is in progress nothing else changes; when it answers ok the reply is dropped and the
worker is done; when it fails one record is made and the worker is done; AxisState stands. The form of the moves is the
model's (assumption 7). -/
def Obligations.PdDispatchSendsTheTorque : Prop :=
  ∀ (s : State) (k : AxisIx) (a : Byte) (iq : Rat),
    s.phase = .dispatch → s.mode = .pd → s.active k = true → (s.axis k).wstep = .cmd → (s.axis k).tq = some iq →
    (s.axis k).axisId = some a → 1 ≤ a.toNat → a.toNat ≤ 32 →
    ((s.axis k).wait ≠ none → s.tRead.isSome = true) →
    ∃ t r s1, workerMove s k = .next t ∧ (t.axis k).group = (s.axis k).group ∧
      TransactMove k a 0xA1 (leInt 2 (toInt (clampQ iq (-2047) 2047))) (replyLen 0xA1) s r s1 ∧
      (match r with
        | none => t = s1
        | some (.ok _) => t = s1.modAxis k fun x => { x with wstep := .done }
        | some (.err e) => t = (s1.report (.err s.ticks k .dispatch e)).modAxis k fun x => { x with wstep := .done }
        | some (.refused _) => False) ∧
      ((s.axis k).wait = none → (t.axis k).rxq = s.drawLink.1.arrive ∧
        match s.drawLink.1.sent with
        | none =>
          (t.axis k).txh = (s.axis k).txh ++ frameBytes 0xA1 a (leInt 2 (toInt (clampQ iq (-2047) 2047))) ∧
            t.rlog = s.rlog ∧
            (if replyLen 0xA1 = 0 then (t.axis k).wstep = .done ∧ (t.axis k).wait = none
            else (t.axis k).wstep = .cmd ∧ (t.axis k).wait = some s.now)
        | some j =>
          (t.axis k).txh = (s.axis k).txh ++ (frameBytes 0xA1 a (leInt 2 (toInt (clampQ iq (-2047) 2047)))).take j ∧
            t.rlog = s.rlog ++ [.err s.ticks k .dispatch .transport] ∧
            (t.axis k).wstep = .done ∧ (t.axis k).wait = none)

/-- R268 in mode IMP: the worker uses of each setpoint the value it has sampled, or the one the register holds, sends the
impedance frame and finishes; a failed write is recorded, and AxisState stands. That a register can have been sampled ahead is
the model's form of R82(5) (assumption 38). -/
def Obligations.ImpDispatchSendsTheSetpoints : Prop :=
  ∀ (s : State) (k : AxisIx) (a : Byte) (kp kd : Rat),
    s.phase = .dispatch → s.mode = .imp → s.active k = true → (s.axis k).wstep = .cmd →
    s.kp = some kp → s.kd = some kd → (s.axis k).axisId = some a → 1 ≤ a.toNat → a.toNat ≤ 32 →
    ∀ pl, pl = impPayload ((s.axis k).smp.p.getD (s.axis k).pDes) ((s.axis k).smp.v.getD (s.axis k).vDes) kp kd
      ((s.axis k).smp.t.getD (s.axis k).tFf) →
    ∃ t, workerMove s k = .next t ∧ (t.axis k).wstep = .done ∧ (t.axis k).group = (s.axis k).group ∧
      (t.axis k).rxq = s.drawLink.1.arrive ∧ (t.axis k).wait = (s.axis k).wait ∧ (t.axis k).smp = {} ∧
      match s.drawLink.1.sent with
      | none => (t.axis k).txh = (s.axis k).txh ++ frameBytes 0xA8 a pl ∧ t.rlog = s.rlog
      | some j =>
        (t.axis k).txh = (s.axis k).txh ++ (frameBytes 0xA8 a pl).take j ∧
          t.rlog = s.rlog ++ [.err s.ticks k .dispatch .transport]

/-- R46, R82(5), R344: each setpoint register is sampled once, a write that comes first is seen and a write that comes later
is not; and of writes that are concurrent with the sampling each is seen or not, register by register, whatever their order.
That the sampling is spread over moves is the model's form of it (assumption 38). -/
def Obligations.SetpointsAreSampledPerRegister : Prop :=
  (∀ (s : State) (k : AxisIx) (r : Setpoint),
    s.active k = true → s.phase = .dispatch → s.mode = .imp → (s.axis k).wstep = .cmd →
    ∃ t, agentMove (.sample k r) s = .next t ∧ t = { s with axes := t.axes } ∧ (∀ j, j ≠ k → t.axis j = s.axis j) ∧
      t.axis k = { s.axis k with smp := (t.axis k).smp } ∧
      (t.axis k).smp =
        (match r with
          | .pDes => { (s.axis k).smp with p := some ((s.axis k).smp.p.getD (s.axis k).pDes) }
          | .vDes => { (s.axis k).smp with v := some ((s.axis k).smp.v.getD (s.axis k).vDes) }
          | .tFf => { (s.axis k).smp with t := some ((s.axis k).smp.t.getD (s.axis k).tFf) })) ∧
  (∀ (s : State) (k : AxisIx) (r : Setpoint),
    ¬(s.active k = true ∧ s.phase = .dispatch ∧ s.mode = .imp ∧ (s.axis k).wstep = .cmd) →
    agentMove (.sample k r) s = .next s) ∧
  ∀ (s : State) (k : AxisIx) (p v t : Rat) (writes : List Event) (seeP seeV seeT : Bool),
    s.active k = true → s.phase = .dispatch → s.mode = .imp → (s.axis k).wstep = .cmd → (s.axis k).smp = {} →
    writes.Perm [.write (.pDes k p), .write (.vDes k v), .write (.tFf k t)] →
    ∃ u, runMoves
        ((if seeP then [] else [.sample k .pDes]) ++ (if seeV then [] else [.sample k .vDes]) ++
          (if seeT then [] else [.sample k .tFf]) ++ writes) s = .next u ∧
      u.axis k = { s.axis k with pDes := p, vDes := v, tFf := t, smp := (u.axis k).smp } ∧
      (u.axis k).smp.p.getD p = (if seeP then p else (s.axis k).pDes) ∧
      (u.axis k).smp.v.getD v = (if seeV then v else (s.axis k).vDes) ∧
      (u.axis k).smp.t.getD t = (if seeT then t else (s.axis k).tFf)

/-- R78, R67: a move of worker `k` touches its own channel and its own axis, never another axis, and of the shared
registers the report log alone; taking a sample touches the samples alone. -/
def Obligations.WorkersAreIsolated : Prop :=
  ∀ (s t : State) (k : AxisIx), workerMove s k = .next t →
    (∀ j, j ≠ k → t.axis j = s.axis j) ∧ s.rlog <+: t.rlog ∧
    t.axis k =
      { s.axis k with
        rxq := (t.axis k).rxq, txh := (t.axis k).txh, codec := (t.axis k).codec, wait := (t.axis k).wait,
        pos := (t.axis k).pos, vel := (t.axis k).vel, trq := (t.axis k).trq, held := (t.axis k).held,
        wstep := (t.axis k).wstep, smp := (t.axis k).smp } ∧
    t = { s with axes := t.axes, rlog := t.rlog, links := t.links, drawn := t.drawn } ∧
    ∀ r : Setpoint, (∀ j, j ≠ k → (sampleMove s k r).axis j = s.axis j) ∧
      (sampleMove s k r).axis k = { s.axis k with smp := ((sampleMove s k r).axis k).smp } ∧
      sampleMove s k r = { s with axes := (sampleMove s k r).axes }

/-- R280, R67, R339: what a step of a running block can write to a channel. Each phase sends only its own commands, and
the phases between them send nothing. -/
def Obligations.EachPhaseSendsItsOwnFrames : Prop :=
  ∀ (s t : State) (k : AxisIx), step s = .next t → s.busy = true → (t.axis k).txh ≠ (s.axis k).txh →
    s.active k = true ∧
    ∃ c a p f pre, (s.axis k).axisId = some a ∧ buildFrame c a p = .ok f ∧ pre <+: f ∧
      (t.axis k).txh = (s.axis k).txh ++ pre ∧
      ((s.phase = .refresh ∧ (s.axis k).wstep = .t1 ∧ c = 0x92 ∧ p = []) ∨
        (s.phase = .refresh ∧ (s.axis k).wstep = .t2 ∧ c = 0x9C ∧ p = []) ∨
        (s.phase = .dispatch ∧ (s.axis k).wstep = .cmd ∧ s.mode = .pd ∧ c = 0xA1) ∨
        (s.phase = .dispatch ∧ (s.axis k).wstep = .cmd ∧ s.mode = .imp ∧ c = 0xA8) ∨
        (s.phase = .startup ∧ s.currentAxis = some k ∧ s.seqStep = .enable ∧ c = 0x88 ∧ p = []) ∨
        (s.phase = .startup ∧ s.currentAxis = some k ∧ s.seqStep = .zero ∧ c = zeroCmdId ∧ p = []) ∨
        (s.phase = .shutdown ∧ s.currentAxis = some k ∧ c = 0x80 ∧ p = []))

/-! ### The machine -/

/-- A step runs what the request at the port decodes to, with the request taken; a request an agent places stands at the
port until then; without one, the next agent moves (R20, R111; the handshake and the order of moves are the model's,
assumptions 1, 37). -/
def Obligations.StepRunsTheDecodedInstruction : Prop :=
  (∀ (s : State) (i : Instr), s.port.start = true → decode s.placed = .ok i → step s = exec i s.taken) ∧
  (∀ (s : State) (r : Request), ∃ t, agentMove (.request r) s = .next t ∧ t.port.start = true ∧ t.placed = r ∧
    t.port.result = s.port.result ∧ t = { s with port := t.port }) ∧
  (∀ s : State, s.taken = { s with port := { s.port with start := false } }) ∧
  ∀ s : State, s.port.start = false → step s = agentMove s.drawEvent.1 s.drawEvent.2

/-- Nothing is ever taken back: the report log and the history of each channel only grow, and time does not go back
(R45, R32, R313). -/
def Obligations.HistoriesOnlyGrow : Prop :=
  ∀ s t : State, step s = .next t →
    s.rlog <+: t.rlog ∧ (∀ k, (s.axis k).txh <+: (t.axis k).txh) ∧ s.now ≤ t.now

/-- R51, R330: the values the spec states for reset. -/
def Obligations.ResetValues : Prop :=
  State.reset.acc = 0 ∧ State.reset.host.txbuf = [] ∧ State.reset.host.rxbuf = [] ∧ State.reset.qout = 0 ∧
  State.reset.impbuf = [0, 0, 0, 0, 0, 0, 0, 0] ∧ State.reset.nax = none ∧
  (∀ k, (State.reset.axis k).axisId = none ∧ (State.reset.axis k).chAddr = none ∧ (State.reset.axis k).baud = none ∧
    (State.reset.axis k).life = .disabled ∧ (State.reset.axis k).group = (none, none, none) ∧
    (State.reset.axis k).valid = false ∧ (State.reset.axis k).txh = [] ∧ (State.reset.axis k).tq = none ∧
    (State.reset.axis k).wstep = .done ∧ (State.reset.axis k).pDes = 0 ∧ (State.reset.axis k).vDes = 0 ∧
    (State.reset.axis k).tFf = 0 ∧ (State.reset.axis k).codec.txbuf = [] ∧ (State.reset.axis k).codec.rxbuf = [] ∧
    State.reset.required.getLsbD k.val = true) ∧
  State.reset.phase = .idle ∧ State.reset.ticks = 0 ∧ State.reset.overrun = false ∧ State.reset.cancel = false ∧
  State.reset.skip = false ∧ State.reset.kp = none ∧ State.reset.kd = none ∧ State.reset.limit = none ∧
  State.reset.period = none ∧ State.reset.tRead = none ∧ State.reset.mode = .pd ∧ State.reset.rlog = []

/-- The invariants hold after reset. -/
def Obligations.InvariantHoldsAtReset : Prop := Inv State.reset

/-- Every step keeps the invariants: the atomic group (R31), legal configuration (R26, R42 to R44), buffer widths (R23 to
R25), the configuration RUN checked (R84, R251), the workers of a phase (R35), the owner of a read in progress (R65,
R67), the torques to be sent (R264, R266), the clock (R313), the validity check (R338), the running axes (R255), and the
sleep (R271), the place in `Startup` (R252 to R254, assumption 8), the samples (R46, assumption 38), and the bound of a read
(R233, R346). -/
def Obligations.EveryStepKeepsTheInvariant : Prop :=
  ∀ s t : State, Inv s → step s = .next t → Inv t

/-- Every instruction answers a next state, in every state: errors and refusals are results (R296, R306). And from a
state that satisfies the invariants the machine always goes on, its one fault never reached (assumption 29). -/
def Obligations.NothingStopsTheMachine : Prop :=
  (∀ (i : Instr) (s : State), ∃ t, exec i s = .next t) ∧ ∀ s : State, Inv s → ∃ t, step s = .next t

/-- R282, R347, from every state that satisfies the invariants: every worker, the sequencer and time have their turn again;
from any phase of a run the block comes to `Between` or to `Halted`, every worker done and every read at its end; from
`Between` it comes to the next phase, and with `CANCEL` set to `Halted`. That the promise is kept by turns in a round, after
any number of other moves, is the model's form (assumption 41). -/
def Obligations.RunsGetOn : Prop :=
  ∀ s : State, Inv s →
    (∀ m : Fin 34, Reaches s fun t => t.port.start = false ∧ t.drawEvent.1 = turnMove m) ∧
    (s.busy = true → Reaches s fun t =>
      (t.phase = .between ∨ t.phase = .halted) ∧ ∀ k, (t.axis k).wstep = .done ∧ (t.axis k).wait = none) ∧
    (s.phase = .between → Reaches s fun t => t.phase = .tickStart ∨ t.phase = .shutdown) ∧
    (s.busy = true → s.cancel = true → Reaches s fun t => t.phase = .halted)

end Statements
end

