-- ==== Sys2Proof/Laws/Bytes.lean ====
section
/-! SUPPORT. Little-endian numbers and byte strings are inverse to each other; the lengths of the payloads the block
assembles; and how far the streaming forms move their index. -/

namespace Sys2Proof.Machine

@[simp] theorem leBytes_length (n v : Nat) : (leBytes n v).length = n := by
  induction n generalizing v with
  | zero => rfl
  | succ n ih => simp [leBytes, ih]

@[simp] theorem leInt_length (n : Nat) (z : Int) : (leInt n z).length = n := leBytes_length _ _

@[simp] theorem torquePayloadBy_length (r : ScaleRound) (iq : Rat) : (torquePayloadBy r iq).length = 2 :=
  leInt_length _ _

@[simp] theorem impPayload_length (p v kp kd t : Rat) : (impPayload p v kp kd t).length = 8 := by
  simp [impPayload, Config.impLayout, packBy]

/-- Writing a number little-endian and reading it back gives it modulo the width. -/
theorem leNat_leBytes (n v : Nat) : leNat (leBytes n v) = v % 256 ^ n := by
  induction n generalizing v with
  | zero => simp [leBytes, leNat, Nat.mod_one]
  | succ n ih =>
    rw [leBytes, leNat, ih, BitVec.toNat_ofNat]
    rw [show (256 : Nat) ^ (n + 1) = 256 * 256 ^ n from pow_succ' 256 n, Nat.mod_mul,
      show (2 : Nat) ^ 8 = 256 from rfl]

theorem leNat_lt (bs : List Byte) : leNat bs < 256 ^ bs.length := by
  induction bs with
  | nil => simp [leNat]
  | cons b bs ih =>
    have := b.isLt
    simp only [leNat, List.length_cons, pow_succ']
    omega

/-- Reading bytes as a number and writing it little-endian gives the bytes back. -/
theorem leBytes_leNat (bs : List Byte) : leBytes bs.length (leNat bs) = bs := by
  induction bs with
  | nil => rfl
  | cons b bs ih =>
    have hb := b.isLt
    have h1 : (b.toNat + 256 * leNat bs) / 256 = leNat bs := by omega
    have h2 : BitVec.ofNat 8 (b.toNat + 256 * leNat bs) = b := by
      apply BitVec.eq_of_toNat_eq
      rw [BitVec.toNat_ofNat]
      omega
    simp only [List.length_cons, leBytes, leNat, h1, h2, ih]

/-- The serializer moves its index by one a byte. -/
theorem serRun_sidx (c a : Byte) (p : List Byte) (n : Nat) (st : Stream) :
    (serRun c a p n st).2.sidx = st.sidx + n := by
  induction n generalizing st with
  | zero => rfl
  | succ n ih =>
    have : (serStep c a p st).2.sidx = st.sidx + 1 := by
      unfold serStep
      split <;> simp_all
      split <;> simp
    simp only [serRun, ih]
    omega

/-- The deserializer moves its index by at most one a byte. -/
theorem desFold_sidx (n : Nat) (raw : List Byte) (d : Des) :
    (raw.foldl (desStep n) d).st.sidx ≤ d.st.sidx + raw.length := by
  induction raw generalizing d with
  | nil => simp
  | cons b raw ih =>
    have h : (desStep n d b).st.sidx ≤ d.st.sidx + 1 := by
      unfold desStep
      split
      · simp
      · dsimp only
        split_ifs <;> simp
    have := ih (desStep n d b)
    simp only [List.foldl_cons, List.length_cons] at this ⊢
    omega

end Sys2Proof.Machine
end

