-- ==== Sys2Proof/Laws/Dispatch.lean ====
section
/-! SUPPORT. Each instruction runs its own meaning: `exec`, one equation per constructor. -/

namespace Sys2Proof.Machine

theorem exec_enable {s : State} {k} : exec (.enable k) s = execEnable k s := rfl
theorem exec_disable {s : State} {k} : exec (.disable k) s = execDisable k s := rfl
theorem exec_stop {s : State} {k} : exec (.stop k) s = execStop k s := rfl
theorem exec_clrerr {s : State} {k} : exec (.clrerr k) s = execClrerr k s := rfl
theorem exec_zero {s : State} {k} : exec (.zero k) s = execZero k s := rfl
theorem exec_zero95 {s : State} {k} : exec (.zero95 k) s = execZero95 k s := rfl
theorem exec_clrturn {s : State} {k} : exec (.clrturn k) s = execClrturn k s := rfl
theorem exec_rdstat1 {s : State} {k} : exec (.rdstat1 k) s = execRdstat1 k s := rfl
theorem exec_rdstat2 {s : State} {k} : exec (.rdstat2 k) s = execRdstat2 k s := rfl
theorem exec_rdenc {s : State} {k} : exec (.rdenc k) s = execRdenc k s := rfl
theorem exec_rdmtang {s : State} {k} : exec (.rdmtang k) s = execRdmtang k s := rfl
theorem exec_rdstang {s : State} {k} : exec (.rdstang k) s = execRdstang k s := rfl
theorem exec_openloop {s : State} {k raw} : exec (.openloop k raw) s = execOpenloop k raw s := rfl
theorem exec_torque {s : State} {k iq} : exec (.torque k iq) s = execTorque k iq s := rfl
theorem exec_speed {s : State} {k w} : exec (.speed k w) s = execSpeed k w s := rfl
theorem exec_pos {s : State} {k th} : exec (.pos k th) s = execPos k th s := rfl
theorem exec_posspd {s : State} {k th w} : exec (.posspd k th w) s = execPosspd k th w s := rfl
theorem exec_scpos {s : State} {k dir ang} : exec (.scpos k dir ang) s = execScpos k dir ang s := rfl
theorem exec_scposspd {s : State} {k dir ang w} : exec (.scposspd k dir ang w) s = execScposspd k dir ang w s := rfl
theorem exec_incpos {s : State} {k d} : exec (.incpos k d) s = execIncpos k d s := rfl
theorem exec_incposspd {s : State} {k d w} : exec (.incposspd k d w) s = execIncposspd k d w s := rfl
theorem exec_impedance {s : State} {k p v kp kd t} : exec (.impedance k p v kp kd t) s = execImpedance k p v kp kd t s := rfl
theorem exec_paramrd {s : State} {k raw} : exec (.paramrd k raw) s = execParamrd k raw s := rfl
theorem exec_paramwrRam {s : State} {k raw} : exec (.paramwrRam k raw) s = execParamwrRam k raw s := rfl
theorem exec_paramwrRom {s : State} {k raw} : exec (.paramwrRom k raw) s = execParamwrRom k raw s := rfl
theorem exec_csumClr {s : State} : exec (.csumClr) s = execCsumClr s := rfl
theorem exec_csumAdd {s : State} {b} : exec (.csumAdd b) s = execCsumAdd b s := rfl
theorem exec_csumRd {s : State} : exec (.csumRd) s = execCsumRd s := rfl
theorem exec_csum8 {s : State} {bytes} : exec (.csum8 bytes) s = execCsum8 bytes s := rfl
theorem exec_build {s : State} {c a p} : exec (.build c a p) s = execBuild c a p s := rfl
theorem exec_validate {s : State} {n} : exec (.validate n) s = execValidate n s := rfl
theorem exec_decMtang {s : State} {payload} : exec (.decMtang payload) s = execDecMtang payload s := rfl
theorem exec_decStat2 {s : State} {payload} : exec (.decStat2 payload) s = execDecStat2 payload s := rfl
theorem exec_decStang {s : State} {payload} : exec (.decStang payload) s = execDecStang payload s := rfl
theorem exec_quant {s : State} {x mn mx bits} : exec (.quant x mn mx bits) s = execQuant x mn mx bits s := rfl
theorem exec_imppack {s : State} {p v kp kd t} : exec (.imppack p v kp kd t) s = execImppack p v kp kd t s := rfl
theorem exec_transact {s : State} {k c p n} : exec (.transact k c p n) s = execTransact k c p n s := rfl
theorem exec_fireforget {s : State} {k c p} : exec (.fireforget k c p) s = execFireforget k c p s := rfl
theorem exec_refresh {s : State} {k} : exec (.refresh k) s = execRefresh k s := rfl
theorem exec_isvalid {s : State} {k} : exec (.isvalid k) s = execIsvalid k s := rfl
theorem exec_computePd {s : State} : exec (.computePd) s = execComputePd s := rfl
theorem exec_run {s : State} : exec (.run) s = execRun s := rfl
theorem exec_cancel {s : State} : exec (.cancel) s = execCancel s := rfl

end Sys2Proof.Machine
end

