-- ==== Sys2Proof/Laws/State.lean ====
section
/-! SUPPORT. What each update of State leaves in each field, so that no proof unfolds a record update; and the
reading of an axis after an update of an axis. -/

namespace Sys2Proof.Machine

section answer

variable (s : State) (r : Result)

@[simp] theorem State.answer_acc : (s.answer r).acc = s.acc := rfl
@[simp] theorem State.answer_host : (s.answer r).host = s.host := rfl
@[simp] theorem State.answer_qout : (s.answer r).qout = s.qout := rfl
@[simp] theorem State.answer_impbuf : (s.answer r).impbuf = s.impbuf := rfl
@[simp] theorem State.answer_axes : (s.answer r).axes = s.axes := rfl
@[simp] theorem State.answer_phase : (s.answer r).phase = s.phase := rfl
@[simp] theorem State.answer_ticks : (s.answer r).ticks = s.ticks := rfl
@[simp] theorem State.answer_tStart : (s.answer r).tStart = s.tStart := rfl
@[simp] theorem State.answer_tEnd : (s.answer r).tEnd = s.tEnd := rfl
@[simp] theorem State.answer_overrun : (s.answer r).overrun = s.overrun := rfl
@[simp] theorem State.answer_cancel : (s.answer r).cancel = s.cancel := rfl
@[simp] theorem State.answer_skip : (s.answer r).skip = s.skip := rfl
@[simp] theorem State.answer_kp : (s.answer r).kp = s.kp := rfl
@[simp] theorem State.answer_kd : (s.answer r).kd = s.kd := rfl
@[simp] theorem State.answer_limit : (s.answer r).limit = s.limit := rfl
@[simp] theorem State.answer_period : (s.answer r).period = s.period := rfl
@[simp] theorem State.answer_tRead : (s.answer r).tRead = s.tRead := rfl
@[simp] theorem State.answer_mode : (s.answer r).mode = s.mode := rfl
@[simp] theorem State.answer_nax : (s.answer r).nax = s.nax := rfl
@[simp] theorem State.answer_rlog : (s.answer r).rlog = s.rlog := rfl
@[simp] theorem State.answer_required : (s.answer r).required = s.required := rfl
@[simp] theorem State.answer_now : (s.answer r).now = s.now := rfl
@[simp] theorem State.answer_seqAxis : (s.answer r).seqAxis = s.seqAxis := rfl
@[simp] theorem State.answer_seqStep : (s.answer r).seqStep = s.seqStep := rfl
@[simp] theorem State.answer_events : (s.answer r).events = s.events := rfl
@[simp] theorem State.answer_turn : (s.answer r).turn = s.turn := rfl
@[simp] theorem State.answer_slack : (s.answer r).slack = s.slack := rfl
@[simp] theorem State.answer_links : (s.answer r).links = s.links := rfl
@[simp] theorem State.answer_drawn : (s.answer r).drawn = s.drawn := rfl

end answer

section report

variable (s : State) (r : Report)

@[simp] theorem State.report_acc : (s.report r).acc = s.acc := rfl
@[simp] theorem State.report_host : (s.report r).host = s.host := rfl
@[simp] theorem State.report_qout : (s.report r).qout = s.qout := rfl
@[simp] theorem State.report_impbuf : (s.report r).impbuf = s.impbuf := rfl
@[simp] theorem State.report_axes : (s.report r).axes = s.axes := rfl
@[simp] theorem State.report_phase : (s.report r).phase = s.phase := rfl
@[simp] theorem State.report_ticks : (s.report r).ticks = s.ticks := rfl
@[simp] theorem State.report_tStart : (s.report r).tStart = s.tStart := rfl
@[simp] theorem State.report_tEnd : (s.report r).tEnd = s.tEnd := rfl
@[simp] theorem State.report_overrun : (s.report r).overrun = s.overrun := rfl
@[simp] theorem State.report_cancel : (s.report r).cancel = s.cancel := rfl
@[simp] theorem State.report_skip : (s.report r).skip = s.skip := rfl
@[simp] theorem State.report_kp : (s.report r).kp = s.kp := rfl
@[simp] theorem State.report_kd : (s.report r).kd = s.kd := rfl
@[simp] theorem State.report_limit : (s.report r).limit = s.limit := rfl
@[simp] theorem State.report_period : (s.report r).period = s.period := rfl
@[simp] theorem State.report_tRead : (s.report r).tRead = s.tRead := rfl
@[simp] theorem State.report_mode : (s.report r).mode = s.mode := rfl
@[simp] theorem State.report_nax : (s.report r).nax = s.nax := rfl
@[simp] theorem State.report_required : (s.report r).required = s.required := rfl
@[simp] theorem State.report_now : (s.report r).now = s.now := rfl
@[simp] theorem State.report_seqAxis : (s.report r).seqAxis = s.seqAxis := rfl
@[simp] theorem State.report_seqStep : (s.report r).seqStep = s.seqStep := rfl
@[simp] theorem State.report_port : (s.report r).port = s.port := rfl
@[simp] theorem State.report_events : (s.report r).events = s.events := rfl
@[simp] theorem State.report_turn : (s.report r).turn = s.turn := rfl
@[simp] theorem State.report_slack : (s.report r).slack = s.slack := rfl
@[simp] theorem State.report_links : (s.report r).links = s.links := rfl
@[simp] theorem State.report_drawn : (s.report r).drawn = s.drawn := rfl

end report

section setAxis

variable (s : State) (k : AxisIx) (a : Axis)

@[simp] theorem State.setAxis_acc : (s.setAxis k a).acc = s.acc := rfl
@[simp] theorem State.setAxis_host : (s.setAxis k a).host = s.host := rfl
@[simp] theorem State.setAxis_qout : (s.setAxis k a).qout = s.qout := rfl
@[simp] theorem State.setAxis_impbuf : (s.setAxis k a).impbuf = s.impbuf := rfl
@[simp] theorem State.setAxis_phase : (s.setAxis k a).phase = s.phase := rfl
@[simp] theorem State.setAxis_ticks : (s.setAxis k a).ticks = s.ticks := rfl
@[simp] theorem State.setAxis_tStart : (s.setAxis k a).tStart = s.tStart := rfl
@[simp] theorem State.setAxis_tEnd : (s.setAxis k a).tEnd = s.tEnd := rfl
@[simp] theorem State.setAxis_overrun : (s.setAxis k a).overrun = s.overrun := rfl
@[simp] theorem State.setAxis_cancel : (s.setAxis k a).cancel = s.cancel := rfl
@[simp] theorem State.setAxis_skip : (s.setAxis k a).skip = s.skip := rfl
@[simp] theorem State.setAxis_kp : (s.setAxis k a).kp = s.kp := rfl
@[simp] theorem State.setAxis_kd : (s.setAxis k a).kd = s.kd := rfl
@[simp] theorem State.setAxis_limit : (s.setAxis k a).limit = s.limit := rfl
@[simp] theorem State.setAxis_period : (s.setAxis k a).period = s.period := rfl
@[simp] theorem State.setAxis_tRead : (s.setAxis k a).tRead = s.tRead := rfl
@[simp] theorem State.setAxis_mode : (s.setAxis k a).mode = s.mode := rfl
@[simp] theorem State.setAxis_nax : (s.setAxis k a).nax = s.nax := rfl
@[simp] theorem State.setAxis_rlog : (s.setAxis k a).rlog = s.rlog := rfl
@[simp] theorem State.setAxis_required : (s.setAxis k a).required = s.required := rfl
@[simp] theorem State.setAxis_now : (s.setAxis k a).now = s.now := rfl
@[simp] theorem State.setAxis_seqAxis : (s.setAxis k a).seqAxis = s.seqAxis := rfl
@[simp] theorem State.setAxis_seqStep : (s.setAxis k a).seqStep = s.seqStep := rfl
@[simp] theorem State.setAxis_port : (s.setAxis k a).port = s.port := rfl
@[simp] theorem State.setAxis_events : (s.setAxis k a).events = s.events := rfl
@[simp] theorem State.setAxis_turn : (s.setAxis k a).turn = s.turn := rfl
@[simp] theorem State.setAxis_slack : (s.setAxis k a).slack = s.slack := rfl
@[simp] theorem State.setAxis_links : (s.setAxis k a).links = s.links := rfl
@[simp] theorem State.setAxis_drawn : (s.setAxis k a).drawn = s.drawn := rfl

end setAxis

section modAxis

variable (s : State) (k : AxisIx) (f : Axis → Axis)

@[simp] theorem State.modAxis_acc : (s.modAxis k f).acc = s.acc := rfl
@[simp] theorem State.modAxis_host : (s.modAxis k f).host = s.host := rfl
@[simp] theorem State.modAxis_qout : (s.modAxis k f).qout = s.qout := rfl
@[simp] theorem State.modAxis_impbuf : (s.modAxis k f).impbuf = s.impbuf := rfl
@[simp] theorem State.modAxis_phase : (s.modAxis k f).phase = s.phase := rfl
@[simp] theorem State.modAxis_ticks : (s.modAxis k f).ticks = s.ticks := rfl
@[simp] theorem State.modAxis_tStart : (s.modAxis k f).tStart = s.tStart := rfl
@[simp] theorem State.modAxis_tEnd : (s.modAxis k f).tEnd = s.tEnd := rfl
@[simp] theorem State.modAxis_overrun : (s.modAxis k f).overrun = s.overrun := rfl
@[simp] theorem State.modAxis_cancel : (s.modAxis k f).cancel = s.cancel := rfl
@[simp] theorem State.modAxis_skip : (s.modAxis k f).skip = s.skip := rfl
@[simp] theorem State.modAxis_kp : (s.modAxis k f).kp = s.kp := rfl
@[simp] theorem State.modAxis_kd : (s.modAxis k f).kd = s.kd := rfl
@[simp] theorem State.modAxis_limit : (s.modAxis k f).limit = s.limit := rfl
@[simp] theorem State.modAxis_period : (s.modAxis k f).period = s.period := rfl
@[simp] theorem State.modAxis_tRead : (s.modAxis k f).tRead = s.tRead := rfl
@[simp] theorem State.modAxis_mode : (s.modAxis k f).mode = s.mode := rfl
@[simp] theorem State.modAxis_nax : (s.modAxis k f).nax = s.nax := rfl
@[simp] theorem State.modAxis_rlog : (s.modAxis k f).rlog = s.rlog := rfl
@[simp] theorem State.modAxis_required : (s.modAxis k f).required = s.required := rfl
@[simp] theorem State.modAxis_now : (s.modAxis k f).now = s.now := rfl
@[simp] theorem State.modAxis_seqAxis : (s.modAxis k f).seqAxis = s.seqAxis := rfl
@[simp] theorem State.modAxis_seqStep : (s.modAxis k f).seqStep = s.seqStep := rfl
@[simp] theorem State.modAxis_port : (s.modAxis k f).port = s.port := rfl
@[simp] theorem State.modAxis_events : (s.modAxis k f).events = s.events := rfl
@[simp] theorem State.modAxis_turn : (s.modAxis k f).turn = s.turn := rfl
@[simp] theorem State.modAxis_slack : (s.modAxis k f).slack = s.slack := rfl
@[simp] theorem State.modAxis_links : (s.modAxis k f).links = s.links := rfl
@[simp] theorem State.modAxis_drawn : (s.modAxis k f).drawn = s.drawn := rfl

end modAxis

section modActive

variable (s : State) (f : Axis → Axis)

@[simp] theorem State.modActive_acc : (s.modActive f).acc = s.acc := rfl
@[simp] theorem State.modActive_host : (s.modActive f).host = s.host := rfl
@[simp] theorem State.modActive_qout : (s.modActive f).qout = s.qout := rfl
@[simp] theorem State.modActive_impbuf : (s.modActive f).impbuf = s.impbuf := rfl
@[simp] theorem State.modActive_phase : (s.modActive f).phase = s.phase := rfl
@[simp] theorem State.modActive_ticks : (s.modActive f).ticks = s.ticks := rfl
@[simp] theorem State.modActive_tStart : (s.modActive f).tStart = s.tStart := rfl
@[simp] theorem State.modActive_tEnd : (s.modActive f).tEnd = s.tEnd := rfl
@[simp] theorem State.modActive_overrun : (s.modActive f).overrun = s.overrun := rfl
@[simp] theorem State.modActive_cancel : (s.modActive f).cancel = s.cancel := rfl
@[simp] theorem State.modActive_skip : (s.modActive f).skip = s.skip := rfl
@[simp] theorem State.modActive_kp : (s.modActive f).kp = s.kp := rfl
@[simp] theorem State.modActive_kd : (s.modActive f).kd = s.kd := rfl
@[simp] theorem State.modActive_limit : (s.modActive f).limit = s.limit := rfl
@[simp] theorem State.modActive_period : (s.modActive f).period = s.period := rfl
@[simp] theorem State.modActive_tRead : (s.modActive f).tRead = s.tRead := rfl
@[simp] theorem State.modActive_mode : (s.modActive f).mode = s.mode := rfl
@[simp] theorem State.modActive_nax : (s.modActive f).nax = s.nax := rfl
@[simp] theorem State.modActive_rlog : (s.modActive f).rlog = s.rlog := rfl
@[simp] theorem State.modActive_required : (s.modActive f).required = s.required := rfl
@[simp] theorem State.modActive_now : (s.modActive f).now = s.now := rfl
@[simp] theorem State.modActive_seqAxis : (s.modActive f).seqAxis = s.seqAxis := rfl
@[simp] theorem State.modActive_seqStep : (s.modActive f).seqStep = s.seqStep := rfl
@[simp] theorem State.modActive_port : (s.modActive f).port = s.port := rfl
@[simp] theorem State.modActive_events : (s.modActive f).events = s.events := rfl
@[simp] theorem State.modActive_turn : (s.modActive f).turn = s.turn := rfl
@[simp] theorem State.modActive_slack : (s.modActive f).slack = s.slack := rfl
@[simp] theorem State.modActive_links : (s.modActive f).links = s.links := rfl
@[simp] theorem State.modActive_drawn : (s.modActive f).drawn = s.drawn := rfl

end modActive

section place

variable (s : State) (r : Request)

@[simp] theorem State.place_acc : (s.place r).acc = s.acc := rfl
@[simp] theorem State.place_host : (s.place r).host = s.host := rfl
@[simp] theorem State.place_qout : (s.place r).qout = s.qout := rfl
@[simp] theorem State.place_impbuf : (s.place r).impbuf = s.impbuf := rfl
@[simp] theorem State.place_axes : (s.place r).axes = s.axes := rfl
@[simp] theorem State.place_phase : (s.place r).phase = s.phase := rfl
@[simp] theorem State.place_ticks : (s.place r).ticks = s.ticks := rfl
@[simp] theorem State.place_tStart : (s.place r).tStart = s.tStart := rfl
@[simp] theorem State.place_tEnd : (s.place r).tEnd = s.tEnd := rfl
@[simp] theorem State.place_overrun : (s.place r).overrun = s.overrun := rfl
@[simp] theorem State.place_cancel : (s.place r).cancel = s.cancel := rfl
@[simp] theorem State.place_skip : (s.place r).skip = s.skip := rfl
@[simp] theorem State.place_kp : (s.place r).kp = s.kp := rfl
@[simp] theorem State.place_kd : (s.place r).kd = s.kd := rfl
@[simp] theorem State.place_limit : (s.place r).limit = s.limit := rfl
@[simp] theorem State.place_period : (s.place r).period = s.period := rfl
@[simp] theorem State.place_tRead : (s.place r).tRead = s.tRead := rfl
@[simp] theorem State.place_mode : (s.place r).mode = s.mode := rfl
@[simp] theorem State.place_nax : (s.place r).nax = s.nax := rfl
@[simp] theorem State.place_rlog : (s.place r).rlog = s.rlog := rfl
@[simp] theorem State.place_required : (s.place r).required = s.required := rfl
@[simp] theorem State.place_now : (s.place r).now = s.now := rfl
@[simp] theorem State.place_seqAxis : (s.place r).seqAxis = s.seqAxis := rfl
@[simp] theorem State.place_seqStep : (s.place r).seqStep = s.seqStep := rfl
@[simp] theorem State.place_events : (s.place r).events = s.events := rfl
@[simp] theorem State.place_turn : (s.place r).turn = s.turn := rfl
@[simp] theorem State.place_slack : (s.place r).slack = s.slack := rfl
@[simp] theorem State.place_links : (s.place r).links = s.links := rfl
@[simp] theorem State.place_drawn : (s.place r).drawn = s.drawn := rfl

end place

section taken

variable (s : State)

@[simp] theorem State.taken_acc : (s.taken).acc = s.acc := rfl
@[simp] theorem State.taken_host : (s.taken).host = s.host := rfl
@[simp] theorem State.taken_qout : (s.taken).qout = s.qout := rfl
@[simp] theorem State.taken_impbuf : (s.taken).impbuf = s.impbuf := rfl
@[simp] theorem State.taken_axes : (s.taken).axes = s.axes := rfl
@[simp] theorem State.taken_phase : (s.taken).phase = s.phase := rfl
@[simp] theorem State.taken_ticks : (s.taken).ticks = s.ticks := rfl
@[simp] theorem State.taken_tStart : (s.taken).tStart = s.tStart := rfl
@[simp] theorem State.taken_tEnd : (s.taken).tEnd = s.tEnd := rfl
@[simp] theorem State.taken_overrun : (s.taken).overrun = s.overrun := rfl
@[simp] theorem State.taken_cancel : (s.taken).cancel = s.cancel := rfl
@[simp] theorem State.taken_skip : (s.taken).skip = s.skip := rfl
@[simp] theorem State.taken_kp : (s.taken).kp = s.kp := rfl
@[simp] theorem State.taken_kd : (s.taken).kd = s.kd := rfl
@[simp] theorem State.taken_limit : (s.taken).limit = s.limit := rfl
@[simp] theorem State.taken_period : (s.taken).period = s.period := rfl
@[simp] theorem State.taken_tRead : (s.taken).tRead = s.tRead := rfl
@[simp] theorem State.taken_mode : (s.taken).mode = s.mode := rfl
@[simp] theorem State.taken_nax : (s.taken).nax = s.nax := rfl
@[simp] theorem State.taken_rlog : (s.taken).rlog = s.rlog := rfl
@[simp] theorem State.taken_required : (s.taken).required = s.required := rfl
@[simp] theorem State.taken_now : (s.taken).now = s.now := rfl
@[simp] theorem State.taken_seqAxis : (s.taken).seqAxis = s.seqAxis := rfl
@[simp] theorem State.taken_seqStep : (s.taken).seqStep = s.seqStep := rfl
@[simp] theorem State.taken_events : (s.taken).events = s.events := rfl
@[simp] theorem State.taken_turn : (s.taken).turn = s.turn := rfl
@[simp] theorem State.taken_slack : (s.taken).slack = s.slack := rfl
@[simp] theorem State.taken_links : (s.taken).links = s.links := rfl
@[simp] theorem State.taken_drawn : (s.taken).drawn = s.drawn := rfl

end taken

@[simp] theorem State.answer_result (s : State) (r : Result) : (s.answer r).port.result = r := rfl
@[simp] theorem State.answer_start (s : State) (r : Result) : (s.answer r).port.start = s.port.start := rfl
@[simp] theorem State.answer_opsel (s : State) (r : Result) : (s.answer r).port.opsel = s.port.opsel := rfl
@[simp] theorem State.answer_ops (s : State) (r : Result) : (s.answer r).port.ops = s.port.ops := rfl
@[simp] theorem State.report_rlog (s : State) (r : Report) : (s.report r).rlog = s.rlog ++ [r] := rfl
@[simp] theorem State.place_start (s : State) (r : Request) : (s.place r).port.start = true := rfl
@[simp] theorem State.place_placed (s : State) (r : Request) : (s.place r).placed = r := rfl
@[simp] theorem State.taken_start (s : State) : s.taken.port.start = false := rfl
@[simp] theorem State.taken_result (s : State) : s.taken.port.result = s.port.result := rfl

/-! ### Axes -/

theorem tabulate_get (g : AxisIx → Axis) (k : AxisIx) : (tabulate g)[k] = g k := by
  show (tabulate g)[k.val] = g k
  simp only [tabulate, Vector.getElem_mk, List.getElem_toArray, List.getElem_ofFn]

@[simp] theorem State.axis_setAxis_self (s : State) (k : AxisIx) (a : Axis) : (s.setAxis k a).axis k = a := by
  simp [State.axis, State.setAxis]

theorem State.axis_setAxis_ne (s : State) {j k : AxisIx} (a : Axis) (h : j ≠ k) :
    (s.setAxis k a).axis j = s.axis j := by
  have h' : (k : Nat) ≠ j := fun e => h (Fin.ext e.symm)
  simp [State.axis, State.setAxis, h']

/-- Everything a write of one axis does to the reading of an axis. -/
theorem State.axis_setAxis (s : State) (j k : AxisIx) (a : Axis) :
    (s.setAxis k a).axis j = if j = k then a else s.axis j := by
  by_cases h : j = k
  · subst h; simp
  · simp [h, State.axis_setAxis_ne]

@[simp] theorem State.axis_modAxis_self (s : State) (k : AxisIx) (f : Axis → Axis) :
    (s.modAxis k f).axis k = f (s.axis k) := by
  simp [State.modAxis]

@[simp] theorem State.axis_modAxis_ne (s : State) {j k : AxisIx} (f : Axis → Axis) (h : j ≠ k) :
    (s.modAxis k f).axis j = s.axis j := by
  simp [State.modAxis, State.axis_setAxis_ne, h]

/-- Everything a partial write of one axis does to the reading of an axis. -/
theorem State.axis_modAxis (s : State) (j k : AxisIx) (f : Axis → Axis) :
    (s.modAxis k f).axis j = if j = k then f (s.axis k) else s.axis j := by
  simp [State.modAxis, State.axis_setAxis]

/-- Everything a write of every axis below `NAX` does to the reading of an axis. -/
@[simp] theorem State.axis_modActive (s : State) (j : AxisIx) (f : Axis → Axis) :
    (s.modActive f).axis j = if s.active j then f (s.axis j) else s.axis j :=
  tabulate_get _ j

@[simp] theorem State.axis_answer (s : State) (r : Result) (j : AxisIx) : (s.answer r).axis j = s.axis j := rfl
@[simp] theorem State.axis_report (s : State) (r : Report) (j : AxisIx) : (s.report r).axis j = s.axis j := rfl
@[simp] theorem State.axis_place (s : State) (r : Request) (j : AxisIx) : (s.place r).axis j = s.axis j := rfl
@[simp] theorem State.axis_taken (s : State) (j : AxisIx) : s.taken.axis j = s.axis j := rfl

/-- An axis depends on the register file alone. -/
theorem State.axis_congr {s t : State} (h : t.axes = s.axes) (k : AxisIx) : t.axis k = s.axis k := by
  simp [State.axis, h]

/-- Whether an axis exists depends on `NAX` alone. -/
theorem State.active_congr {s t : State} (h : t.nax = s.nax) (k : AxisIx) : t.active k = s.active k := by
  simp [State.active, h]

@[simp] theorem State.active_answer (s : State) (r : Result) (k : AxisIx) : (s.answer r).active k = s.active k := rfl
@[simp] theorem State.active_report (s : State) (r : Report) (k : AxisIx) : (s.report r).active k = s.active k := rfl
@[simp] theorem State.active_modAxis (s : State) (j k : AxisIx) (f : Axis → Axis) :
    (s.modAxis j f).active k = s.active k := rfl
@[simp] theorem State.active_modActive (s : State) (k : AxisIx) (f : Axis → Axis) :
    (s.modActive f).active k = s.active k := rfl
@[simp] theorem State.active_taken (s : State) (k : AxisIx) : s.taken.active k = s.active k := rfl

/-- What the test of all axes below `NAX` says. -/
theorem State.allActive_iff (s : State) (p : Axis → Bool) :
    s.allActive p = true ↔ ∀ k, s.active k = true → p (s.axis k) = true := by
  simp only [State.allActive, List.all_eq_true, List.mem_finRange, true_implies, Bool.or_eq_true,
    Bool.not_eq_true']
  constructor
  · intro h k hk
    rcases h k with h1 | h1
    · simp [hk] at h1
    · exact h1
  · intro h k
    by_cases hk : s.active k = true
    · exact Or.inr (h k hk)
    · exact Or.inl (by simpa using hk)

/-- What `Check` puts in `SKIP`. -/
theorem State.skipNeeded_iff (s : State) :
    s.skipNeeded = true ↔
      ∃ k, s.active k = true ∧ s.required.getLsbD k.val = true ∧ (s.axis k).valid = false := by
  simp [State.skipNeeded, and_assoc]

/-- The barrier of a phase. -/
theorem State.barrierPassed_iff (s : State) :
    s.barrierPassed = true ↔ ∀ k, s.active k = true → (s.axis k).wstep = .done := by
  simp [State.barrierPassed, State.allActive_iff]

/-- `VALID[k]` is the conjunction of the three fields' presence. -/
theorem Axis.valid_iff (a : Axis) :
    a.valid = true ↔ a.pos.isSome = true ∧ a.vel.isSome = true ∧ a.trq.isSome = true := by
  unfold Axis.valid Axis.data
  cases a.pos <;> cases a.vel <;> cases a.trq <;> simp

/-- The axis the sequencer is at exists. -/
theorem State.currentAxis_some {s : State} {k : AxisIx} (h : s.currentAxis = some k) :
    s.seqAxis = k.val ∧ s.active k = true := by
  unfold State.currentAxis at h
  split at h
  · split at h
    · cases h; exact ⟨rfl, by assumption⟩
    · cases h
  · cases h

end Sys2Proof.Machine
end

