-- ==== Sys2Proof/Laws/Frame.lean ====
section
/-! SUPPORT. The frame of a move on one channel: what it leaves in each field, and that frames compose. -/

namespace Sys2Proof.Machine

variable {k : AxisIx} {s t u : State}

/-! ### Channels and draws only -/

/-- `t` is `s` but for the channels of its axes, the draws taken, and the time: what a move on one channel has in common
with an operation of the host. -/
def ChannelsOnly (s t : State) : Prop :=
  t = { s with axes := t.axes, links := t.links, drawn := t.drawn, now := t.now } ∧
  ∀ j, t.axis j =
    { s.axis j with
      rxq := (t.axis j).rxq, txh := (t.axis j).txh, codec := (t.axis j).codec, wait := (t.axis j).wait }

theorem ChannelsOnly.acc (h : ChannelsOnly s t) : t.acc = s.acc := (congrArg State.acc h.1 :)
theorem ChannelsOnly.host (h : ChannelsOnly s t) : t.host = s.host := (congrArg State.host h.1 :)
theorem ChannelsOnly.qout (h : ChannelsOnly s t) : t.qout = s.qout := (congrArg State.qout h.1 :)
theorem ChannelsOnly.impbuf (h : ChannelsOnly s t) : t.impbuf = s.impbuf := (congrArg State.impbuf h.1 :)
theorem ChannelsOnly.phase (h : ChannelsOnly s t) : t.phase = s.phase := (congrArg State.phase h.1 :)
theorem ChannelsOnly.ticks (h : ChannelsOnly s t) : t.ticks = s.ticks := (congrArg State.ticks h.1 :)
theorem ChannelsOnly.tStart (h : ChannelsOnly s t) : t.tStart = s.tStart := (congrArg State.tStart h.1 :)
theorem ChannelsOnly.tEnd (h : ChannelsOnly s t) : t.tEnd = s.tEnd := (congrArg State.tEnd h.1 :)
theorem ChannelsOnly.overrun (h : ChannelsOnly s t) : t.overrun = s.overrun := (congrArg State.overrun h.1 :)
theorem ChannelsOnly.cancel (h : ChannelsOnly s t) : t.cancel = s.cancel := (congrArg State.cancel h.1 :)
theorem ChannelsOnly.skip (h : ChannelsOnly s t) : t.skip = s.skip := (congrArg State.skip h.1 :)
theorem ChannelsOnly.kp (h : ChannelsOnly s t) : t.kp = s.kp := (congrArg State.kp h.1 :)
theorem ChannelsOnly.kd (h : ChannelsOnly s t) : t.kd = s.kd := (congrArg State.kd h.1 :)
theorem ChannelsOnly.limit (h : ChannelsOnly s t) : t.limit = s.limit := (congrArg State.limit h.1 :)
theorem ChannelsOnly.period (h : ChannelsOnly s t) : t.period = s.period := (congrArg State.period h.1 :)
theorem ChannelsOnly.tRead (h : ChannelsOnly s t) : t.tRead = s.tRead := (congrArg State.tRead h.1 :)
theorem ChannelsOnly.mode (h : ChannelsOnly s t) : t.mode = s.mode := (congrArg State.mode h.1 :)
theorem ChannelsOnly.nax (h : ChannelsOnly s t) : t.nax = s.nax := (congrArg State.nax h.1 :)
theorem ChannelsOnly.rlog (h : ChannelsOnly s t) : t.rlog = s.rlog := (congrArg State.rlog h.1 :)
theorem ChannelsOnly.required (h : ChannelsOnly s t) : t.required = s.required := (congrArg State.required h.1 :)
theorem ChannelsOnly.seqAxis (h : ChannelsOnly s t) : t.seqAxis = s.seqAxis := (congrArg State.seqAxis h.1 :)
theorem ChannelsOnly.seqStep (h : ChannelsOnly s t) : t.seqStep = s.seqStep := (congrArg State.seqStep h.1 :)
theorem ChannelsOnly.port (h : ChannelsOnly s t) : t.port = s.port := (congrArg State.port h.1 :)
theorem ChannelsOnly.events (h : ChannelsOnly s t) : t.events = s.events := (congrArg State.events h.1 :)
theorem ChannelsOnly.turn (h : ChannelsOnly s t) : t.turn = s.turn := (congrArg State.turn h.1 :)
theorem ChannelsOnly.slack (h : ChannelsOnly s t) : t.slack = s.slack := (congrArg State.slack h.1 :)

theorem ChannelsOnly.axis_axisId (h : ChannelsOnly s t) (j : AxisIx) : (t.axis j).axisId = (s.axis j).axisId :=
  (congrArg Axis.axisId (h.2 j) :)
theorem ChannelsOnly.axis_chAddr (h : ChannelsOnly s t) (j : AxisIx) : (t.axis j).chAddr = (s.axis j).chAddr :=
  (congrArg Axis.chAddr (h.2 j) :)
theorem ChannelsOnly.axis_baud (h : ChannelsOnly s t) (j : AxisIx) : (t.axis j).baud = (s.axis j).baud :=
  (congrArg Axis.baud (h.2 j) :)
theorem ChannelsOnly.axis_life (h : ChannelsOnly s t) (j : AxisIx) : (t.axis j).life = (s.axis j).life :=
  (congrArg Axis.life (h.2 j) :)
theorem ChannelsOnly.axis_pos (h : ChannelsOnly s t) (j : AxisIx) : (t.axis j).pos = (s.axis j).pos :=
  (congrArg Axis.pos (h.2 j) :)
theorem ChannelsOnly.axis_vel (h : ChannelsOnly s t) (j : AxisIx) : (t.axis j).vel = (s.axis j).vel :=
  (congrArg Axis.vel (h.2 j) :)
theorem ChannelsOnly.axis_trq (h : ChannelsOnly s t) (j : AxisIx) : (t.axis j).trq = (s.axis j).trq :=
  (congrArg Axis.trq (h.2 j) :)
theorem ChannelsOnly.axis_tq (h : ChannelsOnly s t) (j : AxisIx) : (t.axis j).tq = (s.axis j).tq :=
  (congrArg Axis.tq (h.2 j) :)
theorem ChannelsOnly.axis_wstep (h : ChannelsOnly s t) (j : AxisIx) : (t.axis j).wstep = (s.axis j).wstep :=
  (congrArg Axis.wstep (h.2 j) :)
theorem ChannelsOnly.axis_pDes (h : ChannelsOnly s t) (j : AxisIx) : (t.axis j).pDes = (s.axis j).pDes :=
  (congrArg Axis.pDes (h.2 j) :)
theorem ChannelsOnly.axis_vDes (h : ChannelsOnly s t) (j : AxisIx) : (t.axis j).vDes = (s.axis j).vDes :=
  (congrArg Axis.vDes (h.2 j) :)
theorem ChannelsOnly.axis_tFf (h : ChannelsOnly s t) (j : AxisIx) : (t.axis j).tFf = (s.axis j).tFf :=
  (congrArg Axis.tFf (h.2 j) :)
theorem ChannelsOnly.axis_smp (h : ChannelsOnly s t) (j : AxisIx) : (t.axis j).smp = (s.axis j).smp :=
  (congrArg Axis.smp (h.2 j) :)
theorem ChannelsOnly.axis_held (h : ChannelsOnly s t) (j : AxisIx) : (t.axis j).held = (s.axis j).held :=
  (congrArg Axis.held (h.2 j) :)

theorem ChannelsOnly.axis_data (h : ChannelsOnly s t) (j : AxisIx) : (t.axis j).data = (s.axis j).data := by
  simp [Axis.data, h.axis_pos j, h.axis_vel j, h.axis_trq j]

theorem ChannelsOnly.axis_valid (h : ChannelsOnly s t) (j : AxisIx) : (t.axis j).valid = (s.axis j).valid := by
  simp [Axis.valid, h.axis_data j]

theorem ChannelsOnly.axis_group (h : ChannelsOnly s t) (j : AxisIx) : (t.axis j).group = (s.axis j).group := by
  simp [Axis.group, h.axis_pos j, h.axis_vel j, h.axis_trq j]

theorem ChannelsOnly.active (h : ChannelsOnly s t) (j : AxisIx) : t.active j = s.active j :=
  State.active_congr h.nax j

theorem ChannelsOnly.busy (h : ChannelsOnly s t) : t.busy = s.busy := by simp [State.busy, h.phase]

theorem ChannelsOnly.currentAxis (h : ChannelsOnly s t) : t.currentAxis = s.currentAxis := by
  simp [State.currentAxis, h.seqAxis, h.active]

theorem ChannelsOnly.usableId (h : ChannelsOnly s t) (j : AxisIx) : t.usableId j = s.usableId j := by
  simp [State.usableId, h.nax, h.axis_axisId j]

/-- Channel frames compose. -/
theorem ChannelsOnly.trans (h₁ : ChannelsOnly s t) (h₂ : ChannelsOnly t u) : ChannelsOnly s u := by
  refine ⟨?_, fun j => ?_⟩
  · conv_lhs => rw [h₂.1]
    rw [h₁.1]
  · conv_lhs => rw [h₂.2 j]
    rw [h₁.2 j]

/-! ### A move on one channel -/

theorem ChannelOnly.channels (h : ChannelOnly k s t) : ChannelsOnly s t :=
  ⟨h.1, fun j => by
    by_cases hj : j = k
    · subst hj; exact h.2.2
    · rw [h.2.1 j hj]⟩

theorem ChannelOnly.refl (k : AxisIx) (s : State) : ChannelOnly k s s := ⟨rfl, fun _ _ => rfl, rfl⟩

/-- The other axes are untouched. -/
theorem ChannelOnly.other (h : ChannelOnly k s t) {j : AxisIx} (hj : j ≠ k) : t.axis j = s.axis j := h.2.1 j hj

theorem ChannelOnly.trans (h₁ : ChannelOnly k s t) (h₂ : ChannelOnly k t u) : ChannelOnly k s u := by
  refine ⟨?_, fun j hj => (h₂.other hj).trans (h₁.other hj), ?_⟩
  · conv_lhs => rw [h₂.1]
    rw [h₁.1]
  · conv_lhs => rw [h₂.2.2]
    rw [h₁.2.2]

/-- The frame of a move that writes registers of channel `k` only. -/
theorem ChannelOnly.of_modAxis (s : State) (k : AxisIx) (f : Axis → Axis)
    (hf : f (s.axis k) =
      { s.axis k with
        rxq := (f (s.axis k)).rxq, txh := (f (s.axis k)).txh, codec := (f (s.axis k)).codec,
        wait := (f (s.axis k)).wait }) :
    ChannelOnly k s (s.modAxis k f) :=
  ⟨rfl, fun _ hj => State.axis_modAxis_ne s f hj, by simpa using hf⟩

/-- The frame of taking a channel draw. -/
theorem ChannelOnly.of_draw (s : State) (k : AxisIx) (l : List LinkDraw) (n : Nat) :
    ChannelOnly k s { s with links := l, drawn := n } := ⟨rfl, fun _ _ => rfl, rfl⟩

/-- The frame of time passing. -/
theorem ChannelOnly.of_now (s : State) (k : AxisIx) (n : Nat) : ChannelOnly k s { s with now := n } :=
  ⟨rfl, fun _ _ => rfl, rfl⟩

/-! ### An operation of the host on one channel -/

theorem Receives.refl (a : Axis) : Receives a a := ⟨[], by simp⟩

theorem Receives.trans {a b c : Axis} (h₁ : Receives a b) (h₂ : Receives b c) : Receives a c := by
  obtain ⟨x, rfl⟩ := h₁
  obtain ⟨y, rfl⟩ := h₂
  exact ⟨x ++ y, by simp⟩

theorem HostOnly.channels (h : HostOnly k s t) : ChannelsOnly s t :=
  ⟨h.1, fun j => by
    by_cases hj : j = k
    · subst hj; exact h.2.2
    · obtain ⟨x, hx⟩ := h.2.1 j hj; rw [hx]⟩

/-- The other axes only receive. -/
theorem HostOnly.other (h : HostOnly k s t) {j : AxisIx} (hj : j ≠ k) : Receives (s.axis j) (t.axis j) := h.2.1 j hj

/-- A move on one channel is a special case. -/
theorem ChannelOnly.hostOnly (h : ChannelOnly k s t) : HostOnly k s t :=
  ⟨h.1, fun j hj => by rw [h.other hj]; exact .refl _, h.2.2⟩

theorem HostOnly.trans (h₁ : HostOnly k s t) (h₂ : HostOnly k t u) : HostOnly k s u :=
  ⟨(h₁.channels.trans h₂.channels).1, fun _ hj => (h₁.other hj).trans (h₂.other hj),
    (h₁.channels.trans h₂.channels).2 k⟩

end Sys2Proof.Machine
end

