-- ==== Sys2Proof/Laws/Ops.lean ====
section
/-! SUPPORT. What each shared operation over State can do, said once: its frame, and the outcome with the registers
it leaves. Proofs about instructions and agents cite these and do not unfold the operations. -/

namespace Sys2Proof.Machine

/-! ### Configuration -/

/-- What makes an axis usable by an operation of the host. -/
theorem State.usableId_eq_some {s : State} {k : AxisIx} {a : Byte} :
    s.usableId k = some a ↔ (s.axis k).axisId = some a ∧ ∀ n, s.nax = some n → k.val < n := by
  unfold State.usableId
  cases h : s.nax with
  | none => simp
  | some n => by_cases hk : k.val < n <;> simp [hk]

/-- The port's checks before an operation of the host uses a channel. -/
theorem State.channelRefusal_eq_none {s : State} {k : AxisIx} {n : Nat} :
    s.channelRefusal k n = none ↔
      s.busy = false ∧ (∃ a, s.usableId k = some a) ∧ (0 < n → ∃ t, s.tRead = some t) := by
  unfold State.channelRefusal
  cases s.busy <;> cases s.usableId k <;> cases s.tRead <;> simp

/-- An existing axis has an index below `NAX`. -/
theorem State.active_iff {s : State} {k : AxisIx} : s.active k = true ↔ ∃ n, s.nax = some n ∧ k.val < n := by
  unfold State.active
  cases s.nax <;> simp

/-! ### The codec -/

/-- When BUILD makes a frame, and which. -/
theorem buildFrame_ok_iff {c a : Byte} {p f : List Byte} :
    buildFrame c a p = .ok f ↔
      p.length ≤ 255 ∧ 1 ≤ a.toNat ∧ a.toNat ≤ 32 ∧
        f = headerBytes c a p.length ++ [csum8 (headerBytes c a p.length)] ++ dataSection p := by
  unfold buildFrame
  split
  · simp; omega
  · split
    · simp; omega
    · simp only [Except.ok.injEq]
      constructor
      · intro h; exact ⟨by omega, by omega, by omega, h.symm⟩
      · intro h; exact h.2.2.2.symm

/-- BUILD refuses with one reason only. -/
theorem buildFrame_error {c a : Byte} {p : List Byte} {r : RefuseReason} (h : buildFrame c a p = .error r) :
    r = .encodeRange := by
  unfold buildFrame at h
  split at h
  · cases h; rfl
  · split at h
    · cases h; rfl
    · cases h

/-- BUILD of a legal axis id and a short payload succeeds. -/
theorem buildFrame_exists {c a : Byte} {p : List Byte} (hp : p.length ≤ 255) (h1 : 1 ≤ a.toNat) (h2 : a.toNat ≤ 32) :
    ∃ f, buildFrame c a p = .ok f := ⟨_, buildFrame_ok_iff.2 ⟨hp, h1, h2, rfl⟩⟩

/-- The adder from any start. -/
theorem csum8_foldl (p : List Byte) (x : Byte) :
    p.foldl csumAdd x = x + BitVec.ofNat 8 (p.map BitVec.toNat).sum := by
  induction p generalizing x with
  | nil => simp
  | cons b bs ih =>
    rw [List.foldl_cons, ih, csumAdd, List.map_cons, List.sum_cons]
    apply BitVec.eq_of_toNat_eq
    simp [BitVec.toNat_add, BitVec.toNat_ofNat]
    omega

/-- What BUILD makes, written out. -/
theorem buildFrame_frameBytes {c a : Byte} {p : List Byte} (hp : p.length ≤ 255) (h1 : 1 ≤ a.toNat) (h2 : a.toNat ≤ 32) :
    buildFrame c a p = .ok (frameBytes c a p) := by
  refine buildFrame_ok_iff.2 ⟨hp, h1, h2, ?_⟩
  have hh : csum8 (headerBytes c a p.length) = 0x3E + c + a + BitVec.ofNat 8 p.length := by
    simp [csum8, headerBytes, csumAdd, marker]
  have hp' : csum8 p = BitVec.ofNat 8 (p.map BitVec.toNat).sum := by simp [csum8, csum8_foldl]
  unfold frameBytes dataSection
  rw [hh, hp']
  cases p <;> simp [headerBytes, marker]

/-- The length of a built frame. -/
theorem buildFrame_length {c a : Byte} {p f : List Byte} (h : buildFrame c a p = .ok f) :
    f.length = frameLen p.length ∧ f.length ≤ 261 := by
  obtain ⟨hp, -, -, rfl⟩ := buildFrame_ok_iff.1 h
  by_cases h0 : p.length = 0
  · simp [headerBytes, dataSection, frameLen, h0]
  · simp [headerBytes, dataSection, frameLen, h0]; omega

/-- BUILD on a codec instance: the frame goes to `TXBUF`. -/
theorem Codec.build_ok {cd cd' : Codec} {c a : Byte} {p : List Byte} (h : cd.build c a p = .ok cd') :
    ∃ f, buildFrame c a p = .ok f ∧ cd' = { cd with txbuf := f, st := (serialize c a p).2 } := by
  unfold Codec.build at h
  split at h
  · cases h
  · cases h; exact ⟨_, by assumption, rfl⟩

/-- BUILD on a codec instance refuses when BUILD refuses. -/
theorem Codec.build_error {cd : Codec} {c a : Byte} {p : List Byte} {r : RefuseReason} (h : cd.build c a p = .error r) :
    buildFrame c a p = .error r := by
  unfold Codec.build at h
  split at h
  · cases h; assumption
  · cases h

/-- BUILD on a codec instance, from BUILD. -/
theorem Codec.build_eq {cd : Codec} {c a : Byte} {p f : List Byte} (h : buildFrame c a p = .ok f) :
    cd.build c a p = .ok { cd with txbuf := f, st := (serialize c a p).2 } := by
  unfold Codec.build; rw [h]

/-- The payload length of an accepted response. -/
theorem validateFrame_ok_length {raw p : List Byte} {n : Nat} (h : validateFrame raw n = .ok p) :
    raw.length = n ∧ p.length = n - 6 := by
  unfold validateFrame at h
  split at h
  · cases h
  · split at h
    · cases h
    · split at h
      · dsimp only at h
        split at h
        · cases h
        · cases h; simp; omega
      · cases h; simp; omega

/-! ### Draws and channel primitives -/

/-- Taking a channel draw changes nothing else. -/
theorem State.drawLink_frame (s : State) :
    s.drawLink.2 = { s with links := s.drawLink.2.links, drawn := s.drawLink.2.drawn } := by
  unfold State.drawLink
  split <;> rfl

theorem drawLink_channelOnly (s : State) (k : AxisIx) : ChannelOnly k s s.drawLink.2 := by
  rw [State.drawLink_frame]; exact ChannelOnly.of_draw s k _ _

@[simp] theorem State.drawLink_axes (s : State) : s.drawLink.2.axes = s.axes := by rw [State.drawLink_frame]
@[simp] theorem State.drawLink_now (s : State) : s.drawLink.2.now = s.now := by rw [State.drawLink_frame]
@[simp] theorem State.drawLink_axis (s : State) (k : AxisIx) : s.drawLink.2.axis k = s.axis k := by
  simp [State.axis]

/-- Taking a move changes nothing but the moves still to come. -/
theorem State.drawEvent_frame (s : State) :
    s.drawEvent.2 =
      { s with
        events := s.drawEvent.2.events
        turn := s.drawEvent.2.turn
        slack := s.drawEvent.2.slack
        drawn := s.drawEvent.2.drawn } := by
  unfold State.drawEvent State.takeEvent State.takeTurn
  repeat' split
  all_goals rfl

/-- The next move is the move of the agent whose turn it is, or it leaves the turn and uses up one move before it. -/
theorem State.drawEvent_turn (s : State) :
    (s.slack = 0 ∧ s.drawEvent.1 = turnMove s.turn ∧ s.drawEvent.2.turn = s.turn + 1) ∨
      (s.drawEvent.2.turn = s.turn ∧ s.drawEvent.2.slack + 1 = s.slack) := by
  unfold State.drawEvent State.takeEvent State.takeTurn
  cases hs : s.slack with
  | zero => exact .inl ⟨rfl, rfl, rfl⟩
  | succ n => right; cases s.events <;> exact ⟨rfl, rfl⟩

/-- `ChDiscard`. -/
theorem chDiscard_channelOnly (s : State) (k : AxisIx) : ChannelOnly k s (chDiscard s k) :=
  ChannelOnly.of_modAxis s k _ rfl

/-- What a write sends is a leading part of the frame. -/
theorem sentPart_prefix (d : LinkDraw) (f : List Byte) : sentPart d f <+: f := by
  unfold sentPart
  split
  · exact List.prefix_rfl
  · exact List.take_prefix _ f

theorem sentPart_of_none {d : LinkDraw} (h : d.sent = none) (f : List Byte) : sentPart d f = f := by
  simp [sentPart, h]

theorem sentPart_of_some {d : LinkDraw} {j : Nat} (h : d.sent = some j) (f : List Byte) : sentPart d f = f.take j := by
  simp [sentPart, h]

/-- Bytes that arrive. -/
theorem chArrive_channelOnly (s : State) (k : AxisIx) (bytes : List Byte) : ChannelOnly k s (chArrive s k bytes) :=
  ChannelOnly.of_modAxis s k _ rfl

@[simp] theorem chArrive_axis_self (s : State) (k : AxisIx) (bytes : List Byte) :
    (chArrive s k bytes).axis k = { s.axis k with rxq := (s.axis k).rxq ++ bytes } :=
  State.axis_modAxis_self s k fun a => { a with rxq := a.rxq ++ bytes }

@[simp] theorem chArrive_now (s : State) (k : AxisIx) (bytes : List Byte) : (chArrive s k bytes).now = s.now := rfl

/-- `ChWrite`: the draw's bytes arrive, and the frame, or the part of it the draw lets through, is appended. -/
theorem chWrite_spec (s : State) (k : AxisIx) (f : List Byte) :
    (chWrite s k f).1 = s.drawLink.1 ∧ ChannelOnly k s (chWrite s k f).2 ∧ (chWrite s k f).2.now = s.now ∧
      (chWrite s k f).2.axis k =
        { s.axis k with
          rxq := (s.axis k).rxq ++ s.drawLink.1.arrive, txh := (s.axis k).txh ++ sentPart s.drawLink.1 f } := by
  refine ⟨rfl, ?_, by simp [chWrite, chArrive, State.modAxis, State.setAxis], by simp [chWrite]⟩
  exact ((drawLink_channelOnly s k).trans (chArrive_channelOnly _ k s.drawLink.1.arrive)).trans
    (ChannelOnly.of_modAxis _ k (fun a => { a with txh := a.txh ++ sentPart s.drawLink.1 f }) rfl)

/-- Bytes that arrive on the other channels leave channel `k` alone. -/
theorem chElsewhere_spec (k : AxisIx) (l : List (AxisIx × List Byte)) (s : State) :
    HostOnly k s (chElsewhere s k l) ∧ (chElsewhere s k l).axis k = s.axis k := by
  induction l generalizing s with
  | nil => exact ⟨(ChannelOnly.refl k s).hostOnly, rfl⟩
  | cons x xs ih =>
    by_cases hx : x.1 = k
    · simpa [chElsewhere, hx] using ih s
    · obtain ⟨h1, h2⟩ := ih (chArrive s x.1 x.2)
      have hk : (chArrive s x.1 x.2).axis k = s.axis k := State.axis_modAxis_ne s _ (Ne.symm hx)
      have h0 : HostOnly k s (chArrive s x.1 x.2) := by
        refine ⟨rfl, fun j hj => ?_, by rw [hk]⟩
        by_cases hj' : j = x.1
        · subst hj'; exact ⟨x.2, by simp⟩
        · rw [(chArrive_channelOnly s x.1 x.2).other hj']; exact .refl _
      simp only [chElsewhere, hx, if_false]
      exact ⟨h0.trans h1, h2.trans hk⟩

/-- What happens outside channel `k` while a primitive of the host runs on it. -/
theorem chMeanwhile_spec (s : State) (k : AxisIx) (d : LinkDraw) :
    HostOnly k s (chMeanwhile s k d) ∧ (chMeanwhile s k d).now = s.now + d.dt ∧
      (chMeanwhile s k d).axis k = s.axis k := by
  obtain ⟨h1, h2⟩ := chElsewhere_spec k d.others s
  exact ⟨h1.trans (ChannelOnly.of_now _ k _).hostOnly, rfl, h2⟩

/-! ### The request half of a transaction -/

/-- How `request` ends, with everything it leaves on channel `k`. -/
inductive RequestEnd (s : State) (k : AxisIx) (c : Byte) (p : List Byte) : Sent → State → Prop where
  /-- no axis id: nothing happens -/
  | noId (h : (s.axis k).axisId = none) : RequestEnd s k c p (.refused .config) s
  /-- BUILD refuses after the discard -/
  | noFrame (a : Byte) (h : (s.axis k).axisId = some a) (hf : buildFrame c a p = .error .encodeRange) :
    RequestEnd s k c p (.refused .encodeRange) (chDiscard s k)
  /-- the write fails after a leading part of the frame -/
  | failed (a : Byte) (f : List Byte) (j : Nat) (t : State) (h : (s.axis k).axisId = some a)
      (hf : buildFrame c a p = .ok f) (hs : s.drawLink.1.sent = some j) (ht : ChannelOnly k s t) (hn : t.now = s.now)
      (hk : t.axis k =
        { s.axis k with
          rxq := s.drawLink.1.arrive, txh := (s.axis k).txh ++ f.take j,
          codec := { (s.axis k).codec with txbuf := f, st := (serialize c a p).2 } }) :
    RequestEnd s k c p (.failed s.drawLink.1) t
  /-- the frame is sent -/
  | sent (a : Byte) (f : List Byte) (t : State) (h : (s.axis k).axisId = some a)
      (hf : buildFrame c a p = .ok f) (hs : s.drawLink.1.sent = none) (ht : ChannelOnly k s t) (hn : t.now = s.now)
      (hk : t.axis k =
        { s.axis k with
          rxq := s.drawLink.1.arrive, txh := (s.axis k).txh ++ f,
          codec := { (s.axis k).codec with txbuf := f, st := (serialize c a p).2 } }) :
    RequestEnd s k c p (.sent s.drawLink.1) t

theorem request_spec (s : State) (k : AxisIx) (c : Byte) (p : List Byte) :
    RequestEnd s k c p (request s k c p).1 (request s k c p).2 := by
  unfold request
  cases ha : (s.axis k).axisId with
  | none => exact .noId ha
  | some a =>
    simp only []
    have h1 : (chDiscard s k).axis k = { s.axis k with rxq := [] } := by simp [chDiscard]
    cases hb : ((chDiscard s k).axis k).codec.build c a p with
    | error r =>
      have := Codec.build_error hb
      obtain rfl := buildFrame_error this
      exact .noFrame a ha this
    | ok cd =>
      obtain ⟨f, hf, rfl⟩ := Codec.build_ok hb
      simp only []
      generalize hs2 : (chDiscard s k).modAxis k (fun ax =>
        { ax with codec := { ((chDiscard s k).axis k).codec with txbuf := f, st := (serialize c a p).2 } }) = s2
      have h2 : ChannelOnly k s s2 := by
        rw [← hs2]; exact (chDiscard_channelOnly s k).trans (ChannelOnly.of_modAxis _ k _ rfl)
      have h2n : s2.now = s.now := by rw [← hs2]; rfl
      have h2k : s2.axis k = { s.axis k with
          rxq := [], codec := { (s.axis k).codec with txbuf := f, st := (serialize c a p).2 } } := by
        rw [← hs2]; simp [h1]
      have h2d : s2.drawLink.1 = s.drawLink.1 := by
        rw [← hs2]; unfold State.drawLink; cases hl : s.links <;> simp [chDiscard, State.modAxis, State.setAxis, hl]
      obtain ⟨hd, hc, hn, hk⟩ := chWrite_spec s2 k f
      rw [h2d] at hd hk
      rcases hw : chWrite s2 k f with ⟨d, t⟩
      rw [hw] at hd hc hn hk
      simp only at hd hc hn hk
      subst hd
      cases hsent : s.drawLink.1.sent with
      | none =>
        exact .sent a f t ha hf hsent (h2.trans hc) (hn.trans h2n) (by rw [hk, h2k, sentPart_of_none hsent]; simp)
      | some j =>
        exact .failed a f j t ha hf hsent (h2.trans hc) (hn.trans h2n) (by rw [hk, h2k, sentPart_of_some hsent]; simp)

/-- `request` is a move on channel `k` only. -/
theorem RequestEnd.frame {s t : State} {k : AxisIx} {c : Byte} {p : List Byte} {r : Sent}
    (h : RequestEnd s k c p r t) : ChannelOnly k s t ∧ t.now = s.now ∧ (t.axis k).wait = (s.axis k).wait := by
  cases h with
  | noId => exact ⟨ChannelOnly.refl _ _, rfl, rfl⟩
  | noFrame => exact ⟨chDiscard_channelOnly s k, rfl, by simp [chDiscard]⟩
  | failed a f j _ _ _ _ ht hn hk => exact ⟨ht, hn, by rw [hk]⟩
  | sent a f _ _ _ _ ht hn hk => exact ⟨ht, hn, by rw [hk]⟩

/-- A request writes a leading part of one frame, and nothing when it is refused. -/
theorem RequestEnd.txh {s t : State} {k : AxisIx} {c : Byte} {p : List Byte} {r : Sent}
    (h : RequestEnd s k c p r t) : ∃ pre, (t.axis k).txh = (s.axis k).txh ++ pre := by
  cases h with
  | noId => exact ⟨[], by simp⟩
  | noFrame => exact ⟨[], by simp [chDiscard]⟩
  | failed a f j _ _ _ _ _ _ hk => exact ⟨f.take j, by rw [hk]⟩
  | sent a f _ _ _ _ _ _ hk => exact ⟨f, by rw [hk]⟩

/-- The widths of the codec buffers survive a request. -/
theorem RequestEnd.txbuf {s t : State} {k : AxisIx} {c : Byte} {p : List Byte} {r : Sent}
    (h : RequestEnd s k c p r t) (hs : (s.axis k).codec.txbuf.length ≤ 261) :
    (t.axis k).codec.txbuf.length ≤ 261 := by
  cases h with
  | noId => exact hs
  | noFrame => simpa [chDiscard] using hs
  | failed a f j _ _ hf _ _ _ hk => rw [hk]; exact (buildFrame_length hf).2
  | sent a f _ _ hf _ _ _ hk => rw [hk]; exact (buildFrame_length hf).2

/-- A request of a legal axis and a short payload is never refused. -/
theorem request_not_refused {s : State} {k : AxisIx} {c : Byte} {p : List Byte} {a : Byte}
    (ha : (s.axis k).axisId = some a) (h1 : 1 ≤ a.toNat) (h2 : a.toNat ≤ 32) (hp : p.length ≤ 255) (r : RefuseReason) :
    (request s k c p).1 ≠ .refused r := by
  obtain ⟨f, hf⟩ := buildFrame_exists (c := c) hp h1 h2
  have hs := request_spec s k c p
  intro hr
  rw [hr] at hs
  generalize (request s k c p).2 = t at hs
  cases hs with
  | noId h => rw [ha] at h; cases h
  | noFrame a' h hf' => rw [ha] at h; cases h; rw [hf] at hf'; cases hf'

/-! ### The reply half of a transaction -/

/-- `collect`: at most `n` bytes leave the head of `RXQ[k]` and are validated. -/
theorem collect_spec (s : State) (k : AxisIx) (n : Nat) :
    (collect s k n).1 =
        (match validateFrame ((s.axis k).rxq.take n) n with
          | .ok p => .ok p
          | .error e => .err e) ∧
      ChannelOnly k s (collect s k n).2 ∧ (collect s k n).2.now = s.now ∧
      (collect s k n).2.axis k =
        { s.axis k with
          rxq := (s.axis k).rxq.drop n
          codec := { (s.axis k).codec with
            rxbuf := (s.axis k).rxq.take n, st := (desRun ((s.axis k).rxq.take n) n).st } } := by
  cases h : validateFrame ((s.axis k).rxq.take n) n <;> simp only [collect, Codec.validate, h] <;>
    exact ⟨trivial, ChannelOnly.of_modAxis _ _ _ rfl, rfl, by simp⟩

/-- `collect` never refuses. -/
theorem collect_not_refused (s : State) (k : AxisIx) (n : Nat) (r : RefuseReason) :
    (collect s k n).1 ≠ .refused r := by
  rw [(collect_spec s k n).1]; split <;> simp

/-- A payload that `collect` delivers has the length the reply length fixes. -/
theorem collect_ok_length {s : State} {k : AxisIx} {n : Nat} {p : List Byte} (h : (collect s k n).1 = .ok p) :
    p.length = n - 6 := by
  rw [(collect_spec s k n).1] at h
  split at h
  · cases h; exact (validateFrame_ok_length ‹_›).2
  · cases h

/-- What a wait of the host lets happen. -/
theorem chPass_spec (s : State) (k : AxisIx) (d : LinkDraw) :
    HostOnly k s (chPass s k d) ∧ (chPass s k d).now = s.now + d.dt ∧
      (chPass s k d).axis k = { s.axis k with rxq := (s.axis k).rxq ++ d.arrive } := by
  obtain ⟨h1, h2, h3⟩ := chMeanwhile_spec (chArrive s k d.arrive) k d
  exact ⟨(chArrive_channelOnly s k _).hostOnly.trans h1, h2, h3.trans (chArrive_axis_self s k _)⟩

@[simp] theorem State.axis_waitUntil (s : State) (t : Nat) (j : AxisIx) : (s.waitUntil t).axis j = s.axis j := rfl

/-- `hostRead`: an operation on channel `k`; it never refuses, a payload has the length the reply length fixes, and it takes
at most `T_READ` (R233). -/
theorem hostRead_spec (s : State) (k : AxisIx) (n tRead : Nat) :
    HostOnly k s (hostRead s k n tRead).2 ∧ s.now ≤ (hostRead s k n tRead).2.now ∧
      (hostRead s k n tRead).2.now ≤ s.now + tRead ∧
      (∀ r, (hostRead s k n tRead).1 ≠ .refused r) ∧
      (∀ p, (hostRead s k n tRead).1 = .ok p → p.length = n - 6) ∧
      ((hostRead s k n tRead).2.axis k).txh = (s.axis k).txh ∧
      ((hostRead s k n tRead).2.axis k).wait = (s.axis k).wait ∧
      ((hostRead s k n tRead).2.axis k).codec.txbuf = (s.axis k).codec.txbuf := by
  have hd := (drawLink_channelOnly s k).hostOnly
  unfold hostRead
  generalize hx : s.drawLink = x at hd
  have hxn : x.2.now = s.now := by rw [← hx]; simp
  have hxk : x.2.axis k = s.axis k := by rw [← hx]; simp
  obtain ⟨d, s1⟩ := x
  simp only at hd hxn hxk ⊢
  obtain ⟨h2', h2n', h2k'⟩ := chPass_spec s1 k { d with dt := min d.dt tRead }
  generalize chPass s1 k { d with dt := min d.dt tRead } = s2 at h2' h2n' h2k' ⊢
  have h2 := hd.trans h2'
  simp only at h2n'
  have h2n : s.now ≤ s2.now := by omega
  have h2b : s2.now ≤ s.now + tRead := by omega
  have h2k : s2.axis k = { s.axis k with rxq := (s.axis k).rxq ++ d.arrive } := by rw [h2k', hxk]
  split
  · exact ⟨h2, h2n, h2b, by simp, by simp, by rw [h2k], by rw [h2k], by rw [h2k]⟩
  · split
    · obtain ⟨-, hc, hn, hk⟩ := collect_spec (s2.waitUntil (s.now + tRead)) k n
      refine ⟨h2.trans ((ChannelOnly.of_now s2 k _).trans hc).hostOnly, ?_, ?_, collect_not_refused _ _ _,
        fun p hp => collect_ok_length hp, ?_, ?_, ?_⟩
      · rw [hn]; exact le_trans h2n (le_max_left _ _)
      · rw [hn]; exact max_le h2b le_rfl
      all_goals rw [hk, State.axis_waitUntil, h2k]
    · obtain ⟨-, hc, hn, hk⟩ := collect_spec s2 k n
      refine ⟨h2.trans hc.hostOnly, by rw [hn]; exact h2n, by rw [hn]; exact h2b, collect_not_refused _ _ _,
        fun p hp => collect_ok_length hp, ?_, ?_, ?_⟩
      all_goals rw [hk, h2k]

/-- `withinReads`: no more than `dt`, and so much that no read that has lasted at most `T` comes to last longer; all of
`dt` where that keeps every read within `T`. -/
theorem State.withinReads_spec (s : State) (T : Nat) (ks : List AxisIx) (dt : Nat) :
    s.withinReads T ks dt ≤ dt ∧
      (∀ k ∈ ks, ∀ since, (s.axis k).wait = some since → s.withinReads T ks dt ≤ since + T - s.now) ∧
      ((∀ k ∈ ks, ∀ since, (s.axis k).wait = some since → dt ≤ since + T - s.now) → s.withinReads T ks dt = dt) := by
  induction ks generalizing dt with
  | nil => simp [State.withinReads]
  | cons k ks ih =>
    unfold State.withinReads
    cases hw : (s.axis k).wait with
    | none =>
      obtain ⟨h1, h2, h3⟩ := ih dt
      exact ⟨h1, by simpa [hw] using h2, fun h => h3 fun j hj => h j (List.mem_cons_of_mem _ hj)⟩
    | some since =>
      obtain ⟨h1, h2, h3⟩ := ih (min dt (since + T - s.now))
      simp only []
      refine ⟨h1.trans (min_le_left _ _), ?_, fun h => ?_⟩
      · intro j hj
        rcases List.mem_cons.1 hj with rfl | hj
        · intro x hx; rw [hw] at hx; cases hx; exact h1.trans (min_le_right _ _)
        · exact h2 j hj
      · have hd : min dt (since + T - s.now) = dt := min_eq_left (h k List.mem_cons_self since hw)
        rw [hd] at h3 ⊢
        exact h3 fun j hj => h j (List.mem_cons_of_mem _ hj)

/-- `passTime`: time passes, no more than `dt`, and no read in progress comes to last longer than `T_READ`. -/
theorem State.passTime_spec (s : State) (dt : Nat) :
    s.passTime dt = { s with now := (s.passTime dt).now } ∧ s.now ≤ (s.passTime dt).now ∧
      (s.passTime dt).now ≤ s.now + dt ∧
      (∀ T, s.tRead = some T → ∀ k since, (s.axis k).wait = some since → s.now ≤ since + T →
        (s.passTime dt).now ≤ since + T) ∧
      ((∀ T, s.tRead = some T → ∀ k since, (s.axis k).wait = some since → s.now + dt ≤ since + T) →
        (s.passTime dt).now = s.now + dt) := by
  refine ⟨rfl, Nat.le_add_right _ _, ?_⟩
  unfold State.passTime
  cases hT : s.tRead with
  | none => simp
  | some T =>
    obtain ⟨h1, h2, h3⟩ := s.withinReads_spec T (List.finRange 32) dt
    simp only []
    refine ⟨by omega, ?_, fun h => ?_⟩
    · rintro _ ⟨⟩ k since hk hle
      have := h2 k (List.mem_finRange k) since hk
      omega
    · rw [h3 fun k _ since hk => ?_]
      have := h T rfl k since hk
      omega

/-- `agentRead`: a move on channel `k`; while it is in progress the call time stands, and when it ends it is
forgotten; it refuses only for want of `T_READ`. -/
theorem agentRead_spec (s : State) (k : AxisIx) (n since : Nat) :
    ChannelOnly k s (agentRead s k n since).2 ∧ (agentRead s k n since).2.now = s.now ∧
      ((agentRead s k n since).2.axis k).txh = (s.axis k).txh ∧
      ((agentRead s k n since).2.axis k).codec.txbuf = (s.axis k).codec.txbuf ∧
      (∀ r, (agentRead s k n since).1 = some (.refused r) → s.tRead = none) ∧
      (∀ p, (agentRead s k n since).1 = some (.ok p) → p.length = n - 6) ∧
      ((agentRead s k n since).1 = none → ((agentRead s k n since).2.axis k).wait = (s.axis k).wait) ∧
      ((∃ p, (agentRead s k n since).1 = some (.ok p)) ∨ (∃ e, (agentRead s k n since).1 = some (.err e)) →
        ((agentRead s k n since).2.axis k).wait = none) := by
  have hd := drawLink_channelOnly s k
  unfold agentRead
  generalize hx : s.drawLink = x at hd
  have hxn : x.2.now = s.now := by rw [← hx]; simp
  have hxk : x.2.axis k = s.axis k := by rw [← hx]; simp
  obtain ⟨d, s1⟩ := x
  simp only at hd hxn hxk ⊢
  generalize hs2 : s1.modAxis k (fun a => { a with wait := none }) = s2
  have h2 : ChannelOnly k s s2 := by rw [← hs2]; exact hd.trans (ChannelOnly.of_modAxis s1 k _ rfl)
  have h2n : s2.now = s.now := by rw [← hs2, ← hxn]; rfl
  have h2k : s2.axis k = { s.axis k with wait := none } := by rw [← hs2, ← hxk]; simp
  obtain ⟨-, hc, hn, hk⟩ := collect_spec s2 k n
  have done : ChannelOnly k s (collect s2 k n).2 ∧ (collect s2 k n).2.now = s.now ∧
      ((collect s2 k n).2.axis k).txh = (s.axis k).txh ∧
      ((collect s2 k n).2.axis k).codec.txbuf = (s.axis k).codec.txbuf ∧
      ((collect s2 k n).2.axis k).wait = none := by
    refine ⟨h2.trans hc, hn.trans h2n, ?_, ?_, ?_⟩
    all_goals rw [hk, h2k]
  split
  · exact ⟨h2, h2n, by rw [h2k], by rw [h2k], by simp, by simp, by simp, fun _ => by rw [h2k]⟩
  · split
    · refine ⟨done.1, done.2.1, done.2.2.1, done.2.2.2.1, ?_, ?_, by simp, fun _ => done.2.2.2.2⟩
      · intro r hr; exact absurd (Option.some.inj hr) (collect_not_refused _ _ _ r)
      · intro p hp; exact collect_ok_length (Option.some.inj hp)
    · cases ht : s1.tRead with
      | none =>
        refine ⟨hd, hxn, by rw [hxk], by rw [hxk], fun _ _ => ?_, by simp, by simp, by simp⟩
        rw [← hd.channels.tRead, ht]
      | some t =>
        simp only []
        split
        · refine ⟨done.1, done.2.1, done.2.2.1, done.2.2.2.1, ?_, ?_, by simp, fun _ => done.2.2.2.2⟩
          · intro r hr; exact absurd (Option.some.inj hr) (collect_not_refused _ _ _ r)
          · intro p hp; exact collect_ok_length (Option.some.inj hp)
        · exact ⟨hd, hxn, by rw [hxk], by rw [hxk], by simp, by simp, fun _ => by rw [hxk], by simp⟩

/-! ### Whole transactions -/

/-- TRANSACT as one operation of the host: an operation on channel `k`, which writes at most one frame. -/
theorem hostTransact_spec (s : State) (k : AxisIx) (c : Byte) (p : List Byte) (n : Nat) :
    HostOnly k s (hostTransact s k c p n).2 ∧ s.now ≤ (hostTransact s k c p n).2.now ∧
      (∀ q, (hostTransact s k c p n).1 = .ok q → q.length = n - 6) ∧
      ((hostTransact s k c p n).2.axis k).wait = (s.axis k).wait ∧
      ((s.axis k).codec.txbuf.length ≤ 261 → ((hostTransact s k c p n).2.axis k).codec.txbuf.length ≤ 261) ∧
      ∃ pre, ((hostTransact s k c p n).2.axis k).txh = (s.axis k).txh ++ pre := by
  have hr := request_spec s k c p
  unfold hostTransact
  rcases hq : request s k c p with ⟨snt, s1⟩
  rw [hq] at hr
  obtain ⟨hc, hn, hw⟩ := hr.frame
  have hf : HostOnly k s s1 := hc.hostOnly
  replace hn : s1.now = s.now := hn
  have hb := hr.txbuf
  have hpre := hr.txh
  cases snt with
  | refused r => exact ⟨hf, hn.ge, by simp, hw, hb, hpre⟩
  | failed d =>
    obtain ⟨h1, h2, h3⟩ := chMeanwhile_spec s1 k d
    exact ⟨hf.trans h1, by simp only; omega, by simp, by simp only [h3]; exact hw, by simp only [h3]; exact hb,
      by simp only [h3]; exact hpre⟩
  | sent d =>
    simp only []
    obtain ⟨h1, h2, h3⟩ := chMeanwhile_spec s1 k d
    generalize chMeanwhile s1 k d = s2 at h1 h2 h3 ⊢
    rw [← h3] at hw hb hpre
    have hf2 := hf.trans h1
    have hn2 : s.now ≤ s2.now := by omega
    split
    · exact ⟨hf2, hn2, by simp_all, hw, hb, hpre⟩
    · cases ht : s2.tRead with
      | none => exact ⟨hf2, hn2, by simp, hw, hb, hpre⟩
      | some t =>
        obtain ⟨h1, h2, -, -, h4, h5, h6, h7⟩ := hostRead_spec s2 k n t
        refine ⟨hf2.trans h1, hn2.trans h2, h4, h6.trans hw, ?_, ?_⟩
        · intro hs; rw [h7]; exact hb hs
        · rw [h5]; exact hpre

/-- TRANSACT of the host is refused only for the axis id, the payload or `T_READ`. -/
theorem hostTransact_not_refused {s : State} {k : AxisIx} {c : Byte} {p : List Byte} {n : Nat} {a : Byte}
    (ha : (s.axis k).axisId = some a) (h1 : 1 ≤ a.toNat) (h2 : a.toNat ≤ 32) (hp : p.length ≤ 255)
    (ht : 0 < n → s.tRead ≠ none) (r : RefuseReason) : (hostTransact s k c p n).1 ≠ .refused r := by
  have hs := request_not_refused (c := c) ha h1 h2 hp
  have hr := (request_spec s k c p).frame
  unfold hostTransact
  rcases hq : request s k c p with ⟨snt, s1⟩
  rw [hq] at hs hr
  cases snt with
  | refused r' => exact absurd rfl (hs r')
  | failed d => simp
  | sent d =>
    have hm := hr.1.channels.trans (chMeanwhile_spec s1 k d).1.channels
    simp only []
    split
    · simp
    · cases hT : (chMeanwhile s1 k d).tRead with
      | none => exact absurd (hm.tRead ▸ hT) (ht (by omega))
      | some t => exact (hostRead_spec _ k n t).2.2.2.1 r

/-- FIREFORGET of the host: an operation on channel `k` and, when its write failed, one record. -/
theorem hostFireForget_spec (s : State) (k : AxisIx) (c : Byte) (p : List Byte) (site : Site) :
    ∃ t, HostOnly k s t ∧ s.now ≤ t.now ∧ (t.axis k).wait = (s.axis k).wait ∧
      ((s.axis k).codec.txbuf.length ≤ 261 → (t.axis k).codec.txbuf.length ≤ 261) ∧
      (∃ pre, (t.axis k).txh = (s.axis k).txh ++ pre) ∧
      ((hostFireForget s k c p site).2 = t ∨
        ∃ e, (hostTransact s k c p 0).1 = .err e ∧
          (hostFireForget s k c p site).2 = t.report (.err 0 k site e)) := by
  obtain ⟨h1, h2, -, h4, h5, h6⟩ := hostTransact_spec s k c p 0
  refine ⟨_, h1, h2, h4, h5, h6, ?_⟩
  unfold hostFireForget
  rcases hostTransact s k c p 0 with ⟨r | e | q, t⟩
  · exact .inl rfl
  · exact .inr ⟨e, rfl, rfl⟩
  · exact .inl rfl

/-- One move of an agent's TRANSACT: a move on channel `k`; a transaction in progress leaves a read in progress, and
one that has ended leaves none. -/
theorem agentTransact_spec (s : State) (k : AxisIx) (c : Byte) (p : List Byte) (n : Nat) :
    ChannelOnly k s (agentTransact s k c p n).2 ∧ (agentTransact s k c p n).2.now = s.now ∧
      (∀ q, (agentTransact s k c p n).1 = some (.ok q) → q.length = n - 6) ∧
      ((s.axis k).codec.txbuf.length ≤ 261 → ((agentTransact s k c p n).2.axis k).codec.txbuf.length ≤ 261) ∧
      (∃ pre, ((agentTransact s k c p n).2.axis k).txh = (s.axis k).txh ++ pre) ∧
      ((agentTransact s k c p n).1 = none →
        ((agentTransact s k c p n).2.axis k).wait = some ((s.axis k).wait.getD s.now)) ∧
      ((∃ q, (agentTransact s k c p n).1 = some (.ok q)) ∨ (∃ e, (agentTransact s k c p n).1 = some (.err e)) →
        ((agentTransact s k c p n).2.axis k).wait = none) := by
  unfold agentTransact
  cases hwait : (s.axis k).wait with
  | some since =>
    simp only []
    obtain ⟨h1, h2, h3, h4, -, h6, h7, h8⟩ := agentRead_spec s k n since
    refine ⟨h1, h2, h6, fun hs => by rw [h4]; exact hs, ⟨[], by rw [h3]; simp⟩, ?_, h8⟩
    intro hn; rw [h7 hn, hwait]; rfl
  | none =>
    simp only []
    have hr := request_spec s k c p
    rcases hq : request s k c p with ⟨snt, s1⟩
    rw [hq] at hr
    obtain ⟨hf, hn, hw⟩ := hr.frame
    have hb := hr.txbuf
    have hpre := hr.txh
    cases snt with
    | refused r => exact ⟨hf, hn, by simp, hb, hpre, by simp, by simp⟩
    | failed d => exact ⟨hf, hn, by simp, hb, hpre, by simp, fun _ => by rw [hw, hwait]⟩
    | sent d =>
      simp only []
      split
      · exact ⟨hf, hn, by simp_all, hb, hpre, by simp, fun _ => by rw [hw, hwait]⟩
      · refine ⟨hf.trans (ChannelOnly.of_modAxis s1 k (fun a => { a with wait := some s1.now }) rfl), hn, by simp,
          ?_, ?_, ?_, by simp⟩
        · intro hs; simpa using hb hs
        · simpa using hpre
        · intro _; simpa using hn

/-- An agent's TRANSACT is refused only for the axis id, the payload or `T_READ`. -/
theorem agentTransact_not_refused {s : State} {k : AxisIx} {c : Byte} {p : List Byte} {n : Nat} {a : Byte}
    (ha : (s.axis k).axisId = some a) (h1 : 1 ≤ a.toNat) (h2 : a.toNat ≤ 32) (hp : p.length ≤ 255)
    (ht : s.tRead ≠ none) (r : RefuseReason) : (agentTransact s k c p n).1 ≠ some (.refused r) := by
  have hs := request_not_refused (c := c) ha h1 h2 hp
  unfold agentTransact
  cases hwait : (s.axis k).wait with
  | some since =>
    intro hr
    exact ht ((agentRead_spec s k n since).2.2.2.2.1 r hr)
  | none =>
    simp only []
    rcases hq : request s k c p with ⟨snt, s1⟩
    rw [hq] at hs
    cases snt with
    | refused r' => exact absurd rfl (hs r')
    | failed => simp
    | sent => simp only []; split <;> simp

/-- One move of an agent's TRANSACT of a legal axis and a short payload, in full. -/
theorem agentTransact_move {s : State} {k : AxisIx} {a c : Byte} {p : List Byte} (n : Nat)
    (ha : (s.axis k).axisId = some a) (h1 : 1 ≤ a.toNat) (h2 : a.toNat ≤ 32) (hp : p.length ≤ 255)
    (ht : (s.axis k).wait ≠ none → s.tRead.isSome = true) :
    TransactMove k a c p n s (agentTransact s k c p n).1 (agentTransact s k c p n).2 := by
  obtain ⟨hf, hn, -⟩ := agentTransact_spec s k c p n
  refine ⟨hf, hn, ?_⟩
  cases hw : (s.axis k).wait with
  | none =>
    have hb := buildFrame_frameBytes (c := c) hp h1 h2
    have hr := request_spec s k c p
    simp only [agentTransact, hw]
    generalize request s k c p = x at hr
    obtain ⟨snt, s1⟩ := x
    simp only at hr
    cases hr with
    | noId h => rw [ha] at h; cases h
    | noFrame a' h hf' => rw [ha] at h; cases h; rw [hb] at hf'; cases hf'
    | failed a' f j t h hf' hs hc hn' hk =>
      rw [ha] at h; cases h; rw [hb] at hf'; cases hf'
      simp only [hs]
      rw [hk]
      exact ⟨rfl, trivial, rfl, hw⟩
    | sent a' f t h hf' hs hc hn' hk =>
      rw [ha] at h; cases h; rw [hb] at hf'; cases hf'
      simp only [hs]
      by_cases h0 : n = 0
      · simp only [h0, if_true]; rw [hk]; exact ⟨rfl, rfl, trivial, hw⟩
      · simp only [h0, if_false, State.axis_modAxis_self]; simp only [hk]
        exact ⟨trivial, trivial, trivial, by rw [show s1.now = s.now from hn']⟩
  | some since =>
    obtain ⟨T, hT⟩ := Option.isSome_iff_exists.1 (ht (by simp [hw]))
    have hT' : s.drawLink.2.tRead = some T := by rw [State.drawLink_frame]; exact hT
    simp only [agentTransact, hw, agentRead]
    have hk2 : (s.drawLink.2.modAxis k fun a => { a with wait := none }).axis k = { s.axis k with wait := none } := by simp
    obtain ⟨hr, -, -, hck⟩ := collect_spec (s.drawLink.2.modAxis k fun a => { a with wait := none }) k n
    rw [hk2] at hr hck
    cases hrf : s.drawLink.1.readFails with
    | true => simp
    | false =>
      simp only [Bool.false_eq_true, if_false, State.drawLink_axis]
      by_cases hl : n ≤ (s.axis k).rxq.length
      · simp only [hl, if_true]; rw [hck, hr]; exact ⟨rfl, rfl, rfl, rfl⟩
      · simp only [hl, if_false, hT', State.drawLink_now]
        by_cases hd : since + T ≤ s.now
        · simp only [hd, if_true]
          have hv : validateFrame ((s.axis k).rxq.take n) n = .error .timeout := by
            unfold validateFrame
            rw [if_pos]
            simp; omega
          refine ⟨by rw [hck], T, hT, ?_⟩
          rw [if_pos hd, hr, hck]
          simp only [hv]
          exact ⟨trivial, List.drop_eq_nil_of_le (by omega), trivial⟩
        · simp only [hd, if_false]
          refine ⟨by simp, T, hT, ?_⟩
          rw [if_neg hd]; simp

/-- FIREFORGET of a worker: the request alone; its failure becomes one record. -/
theorem fireForget_spec (s : State) (k : AxisIx) (c : Byte) (p : List Byte) :
    ∃ t, ChannelOnly k s t ∧ t.now = s.now ∧ (t.axis k).wait = (s.axis k).wait ∧
      ((s.axis k).codec.txbuf.length ≤ 261 → (t.axis k).codec.txbuf.length ≤ 261) ∧
      (∃ pre, (t.axis k).txh = (s.axis k).txh ++ pre) ∧
      ((fireForget s k c p).2 = t ∨
        ((∃ d, (request s k c p).1 = .failed d) ∧
          (fireForget s k c p).2 = t.report (.err s.ticks k .dispatch .transport))) := by
  have hr := request_spec s k c p
  unfold fireForget
  rcases hq : request s k c p with ⟨snt, s1⟩
  rw [hq] at hr
  obtain ⟨hf, hn, hw⟩ := hr.frame
  have hb := hr.txbuf
  have hpre := hr.txh
  have ht := hf.channels.ticks
  cases snt with
  | refused r => exact ⟨s1, hf, hn, hw, hb, hpre, .inl rfl⟩
  | failed d => exact ⟨s1, hf, hn, hw, hb, hpre, .inr ⟨⟨d, rfl⟩, rfl⟩⟩
  | sent d => exact ⟨s1, hf, hn, hw, hb, hpre, .inl rfl⟩

/-- FIREFORGET of a legal axis and a short payload is never refused. -/
theorem fireForget_not_refused {s : State} {k : AxisIx} {c : Byte} {p : List Byte} {a : Byte}
    (ha : (s.axis k).axisId = some a) (h1 : 1 ≤ a.toNat) (h2 : a.toNat ≤ 32) (hp : p.length ≤ 255) :
    (fireForget s k c p).1 = none := by
  have hs := request_not_refused (c := c) ha h1 h2 hp
  unfold fireForget
  rcases hq : request s k c p with ⟨snt, s1⟩
  rw [hq] at hs
  cases snt with
  | refused r' => exact absurd rfl (hs r')
  | failed d => rfl
  | sent d => rfl

/-! ### Samples -/

/-- A sample fixes one setpoint and changes none. -/
@[simp] theorem Axis.setpoints_sample (a : Axis) (r : Setpoint) : (a.sample r).setpoints = a.setpoints := by
  cases r <;> simp [Axis.sample, Axis.setpoints]

/-- A sample writes nothing but the samples. -/
theorem Axis.sample_frame (a : Axis) (r : Setpoint) : a.sample r = { a with smp := (a.sample r).smp } := by
  cases r <;> rfl

/-! ### Operations of the host port -/

/-- The encode operation: a refusal hands over its reason and writes nothing else, success writes the host's codec
instance and hands over the frame. -/
theorem encodeWire_spec (s : State) (k : AxisIx) (c : Byte) (pl : Except RefuseReason (List Byte)) :
    (∃ r, encodeWire s k c pl = s.answer (.refused r)) ∨
      ∃ a p f, s.usableId k = some a ∧ pl = .ok p ∧ buildFrame c a p = .ok f ∧
        encodeWire s k c pl =
          { s with host := { s.host with txbuf := f, st := (serialize c a p).2 } }.answer (.ok (.bytes f)) := by
  unfold encodeWire
  cases hu : s.usableId k with
  | none => exact .inl ⟨_, rfl⟩
  | some a =>
    cases hp : pl with
    | error r => exact .inl ⟨_, rfl⟩
    | ok p =>
      cases hb : s.host.build c a p with
      | error r => exact .inl ⟨r, by simp [hb]⟩
      | ok cd =>
        obtain ⟨f, hf, rfl⟩ := Codec.build_ok hb
        exact .inr ⟨a, p, f, rfl, rfl, hf, by simp [hb]⟩

/-- The group update writes the three fields and nothing else. -/
theorem State.setGroup_spec (s : State) (k : AxisIx) (g : Option (BitVec 64 × BitVec 16 × BitVec 16)) :
    (s.setGroup k g).axis k =
        { s.axis k with pos := g.map fun x => x.1, vel := g.map fun x => x.2.1, trq := g.map fun x => x.2.2 } ∧
      ((s.setGroup k g).axis k).data = g ∧
      (∀ j, j ≠ k → (s.setGroup k g).axis j = s.axis j) ∧
      s.setGroup k g = { s with axes := (s.setGroup k g).axes } := by
  refine ⟨by simp [State.setGroup], ?_, fun j hj => by simp [State.setGroup, hj], rfl⟩
  cases g <;> simp [State.setGroup, Axis.data]

end Sys2Proof.Machine
end

