-- ==== Sys2Proof/Laws/PerInstr.lean ====
section
/-! SUPPORT. What holds of every instruction as syntax, one lemma per constructor. -/

/-- The request an instruction encodes to decodes to that instruction, with every operand at every value
(`30_encoding.md` R112). -/
def Sys2Proof.Laws.PortRoundTrip.Statement (i : Sys2Proof.Instr) : Prop :=
  Sys2Proof.decode (Sys2Proof.encode i) = .ok i

namespace Sys2Proof.Laws

theorem PortRoundTrip.enable (k : AxisIx) : PortRoundTrip.Statement (.enable k) := rfl
theorem PortRoundTrip.disable (k : AxisIx) : PortRoundTrip.Statement (.disable k) := rfl
theorem PortRoundTrip.stop (k : AxisIx) : PortRoundTrip.Statement (.stop k) := rfl
theorem PortRoundTrip.clrerr (k : AxisIx) : PortRoundTrip.Statement (.clrerr k) := rfl
theorem PortRoundTrip.zero (k : AxisIx) : PortRoundTrip.Statement (.zero k) := rfl
theorem PortRoundTrip.zero95 (k : AxisIx) : PortRoundTrip.Statement (.zero95 k) := rfl
theorem PortRoundTrip.clrturn (k : AxisIx) : PortRoundTrip.Statement (.clrturn k) := rfl
theorem PortRoundTrip.rdstat1 (k : AxisIx) : PortRoundTrip.Statement (.rdstat1 k) := rfl
theorem PortRoundTrip.rdstat2 (k : AxisIx) : PortRoundTrip.Statement (.rdstat2 k) := rfl
theorem PortRoundTrip.rdenc (k : AxisIx) : PortRoundTrip.Statement (.rdenc k) := rfl
theorem PortRoundTrip.rdmtang (k : AxisIx) : PortRoundTrip.Statement (.rdmtang k) := rfl
theorem PortRoundTrip.rdstang (k : AxisIx) : PortRoundTrip.Statement (.rdstang k) := rfl
theorem PortRoundTrip.openloop (k : AxisIx) (raw : List Byte) : PortRoundTrip.Statement (.openloop k raw) := rfl
theorem PortRoundTrip.torque (k : AxisIx) (iq : Rat) : PortRoundTrip.Statement (.torque k iq) := rfl
theorem PortRoundTrip.speed (k : AxisIx) (w : Rat) : PortRoundTrip.Statement (.speed k w) := rfl
theorem PortRoundTrip.pos (k : AxisIx) (th : Rat) : PortRoundTrip.Statement (.pos k th) := rfl
theorem PortRoundTrip.posspd (k : AxisIx) (th w : Rat) : PortRoundTrip.Statement (.posspd k th w) := rfl
theorem PortRoundTrip.scpos (k : AxisIx) (dir : Byte) (ang : Rat) : PortRoundTrip.Statement (.scpos k dir ang) := rfl
theorem PortRoundTrip.scposspd (k : AxisIx) (dir : Byte) (ang w : Rat) : PortRoundTrip.Statement (.scposspd k dir ang w) := rfl
theorem PortRoundTrip.incpos (k : AxisIx) (d : Rat) : PortRoundTrip.Statement (.incpos k d) := rfl
theorem PortRoundTrip.incposspd (k : AxisIx) (d w : Rat) : PortRoundTrip.Statement (.incposspd k d w) := rfl
theorem PortRoundTrip.impedance (k : AxisIx) (p v kp kd t : Rat) : PortRoundTrip.Statement (.impedance k p v kp kd t) := rfl
theorem PortRoundTrip.paramrd (k : AxisIx) (raw : List Byte) : PortRoundTrip.Statement (.paramrd k raw) := rfl
theorem PortRoundTrip.paramwrRam (k : AxisIx) (raw : List Byte) : PortRoundTrip.Statement (.paramwrRam k raw) := rfl
theorem PortRoundTrip.paramwrRom (k : AxisIx) (raw : List Byte) : PortRoundTrip.Statement (.paramwrRom k raw) := rfl
theorem PortRoundTrip.csumClr : PortRoundTrip.Statement .csumClr := rfl
theorem PortRoundTrip.csumAdd (b : Byte) : PortRoundTrip.Statement (.csumAdd b) := rfl
theorem PortRoundTrip.csumRd : PortRoundTrip.Statement .csumRd := rfl
theorem PortRoundTrip.csum8 (bytes : List Byte) : PortRoundTrip.Statement (.csum8 bytes) := rfl
theorem PortRoundTrip.build (c a : Byte) (p : List Byte) : PortRoundTrip.Statement (.build c a p) := rfl
theorem PortRoundTrip.validate (expectedLen : Nat) : PortRoundTrip.Statement (.validate expectedLen) := rfl
theorem PortRoundTrip.decMtang (payload : List Byte) : PortRoundTrip.Statement (.decMtang payload) := rfl
theorem PortRoundTrip.decStat2 (payload : List Byte) : PortRoundTrip.Statement (.decStat2 payload) := rfl
theorem PortRoundTrip.decStang (payload : List Byte) : PortRoundTrip.Statement (.decStang payload) := rfl
theorem PortRoundTrip.quant (x min max : Rat) (bits : Nat) : PortRoundTrip.Statement (.quant x min max bits) := rfl
theorem PortRoundTrip.imppack (p v kp kd t : Rat) : PortRoundTrip.Statement (.imppack p v kp kd t) := rfl
theorem PortRoundTrip.transact (k : AxisIx) (c : Byte) (p : List Byte) (n : Nat) : PortRoundTrip.Statement (.transact k c p n) := rfl
theorem PortRoundTrip.fireforget (k : AxisIx) (c : Byte) (p : List Byte) : PortRoundTrip.Statement (.fireforget k c p) := rfl
theorem PortRoundTrip.refresh (k : AxisIx) : PortRoundTrip.Statement (.refresh k) := rfl
theorem PortRoundTrip.isvalid (k : AxisIx) : PortRoundTrip.Statement (.isvalid k) := rfl
theorem PortRoundTrip.computePd : PortRoundTrip.Statement .computePd := rfl
theorem PortRoundTrip.run : PortRoundTrip.Statement .run := rfl
theorem PortRoundTrip.cancel : PortRoundTrip.Statement .cancel := rfl

end Sys2Proof.Laws
end

