-- ==== Sys2Proof/Laws/Runs.lean ====
section
/-! SUPPORT. Runs of several steps: how they compose, and what a step is when an agent has its turn. -/

namespace Sys2Proof.Machine

variable {s t : State} {p q : State → Prop}

/-- A run that begins with a step. -/
theorem runSteps_succ (n : Nat) (h : step s = .next t) : runSteps (n + 1) s = runSteps n t := by simp [runSteps, h]

/-- Runs compose. -/
theorem runSteps_add {n : Nat} (m : Nat) (h : runSteps n s = .next t) : runSteps (n + m) s = runSteps m t := by
  induction n generalizing s with
  | zero => cases h; simp
  | succ n ih =>
    unfold runSteps at h
    cases hs : step s with
    | next u => rw [hs] at h; rw [show n + 1 + m = n + m + 1 by omega, runSteps_succ _ hs]; exact ih h
    | fault f => rw [hs] at h; cases h
    | refused r => rw [hs] at h; cases h

theorem Reaches.here (h : p s) : Reaches s p := ⟨0, s, rfl, h⟩

theorem Reaches.step (h : step s = .next t) (g : Reaches t p) : Reaches s p := by
  obtain ⟨n, u, hu, hp⟩ := g
  exact ⟨n + 1, u, (runSteps_succ n h).trans hu, hp⟩

theorem Reaches.bind (h : Reaches s p) (g : ∀ t, p t → Reaches t q) : Reaches s q := by
  obtain ⟨n, t, ht, hp⟩ := h
  obtain ⟨m, u, hu, hq⟩ := g t hp
  exact ⟨n + m, u, (runSteps_add m ht).trans hu, hq⟩

theorem Reaches.mono (h : Reaches s p) (g : ∀ t, p t → q t) : Reaches s q := h.bind fun t ht => .here (g t ht)

/-- With no operation at the port and no slack left, a step is the move of the agent whose turn it is (assumption 41). -/
theorem step_turn (h : s.port.start = false) (hs : s.slack = 0) :
    step s = agentMove (turnMove s.turn) s.drawEvent.2 := by
  rcases s.drawEvent_turn with ⟨-, he, -⟩ | ⟨-, hc⟩
  · rw [← he]; simp [step, nextMove, h]
  · omega

end Sys2Proof.Machine
end

