-- ==== Sys2Proof/WellFormed.lean ====
section
/-! DEFINITION. Which instructions have every operand inside the domain its rule gives it. Decoding and `exec`
do not depend on it: an operand outside its domain is refused by the operation itself (R106, R296). -/

namespace Sys2Proof

/-- The operand domains: axis ids 1 to 32 and payloads of at most 255 bytes (R130), open-loop payloads of at
least one byte (R171), direction bytes 0 and 1 (R176), `expected_len` at least 1 (R133), the decoders' payload
lengths (R195 to R198), `min < max` and 1 to 16 bits (R211). -/
def Instr.wellFormed : Instr → Bool
  | .enable _ | .disable _ | .stop _ | .clrerr _ | .zero _ | .zero95 _ => true
  | .clrturn _ | .rdstat1 _ | .rdstat2 _ | .rdenc _ | .rdmtang _ | .rdstang _ => true
  | .openloop _ raw => 1 ≤ raw.length && raw.length ≤ 255
  | .torque _ _ | .speed _ _ | .pos _ _ | .posspd _ _ _ => true
  | .scpos _ dir _ => dir == 0 || dir == 1
  | .scposspd _ dir _ _ => dir == 0 || dir == 1
  | .incpos _ _ | .incposspd _ _ _ | .impedance _ _ _ _ _ _ => true
  | .paramrd _ raw | .paramwrRam _ raw | .paramwrRom _ raw => raw.length ≤ 255
  | .csumClr | .csumAdd _ | .csumRd | .csum8 _ => true
  | .build _ a p => 1 ≤ a.toNat && a.toNat ≤ 32 && p.length ≤ 255
  | .validate n => 1 ≤ n
  | .decMtang p => p.length == 8
  | .decStat2 p => p.length == 7
  | .decStang p => p.length == 4
  | .quant _ mn mx bits => mn < mx && 1 ≤ bits && bits ≤ 16
  | .imppack _ _ _ _ _ => true
  | .transact _ _ p _ => p.length ≤ 255
  | .fireforget _ _ p => p.length ≤ 255
  | .refresh _ | .isvalid _ | .computePd | .run | .cancel => true

end Sys2Proof
end

