-- ==== Sys2Proof/Tests/Slice0.lean ====
section
/-! SUPPORT. Tests of the model against the spec's own words and vectors (`95_test_vectors.md`), and, for every
statement with hypotheses, a concrete state and operands that meet them. -/

namespace Sys2Proof.Tests

open Sys2Proof Sys2Proof.Machine

/- One test after the other: many of them waiting for the kernel at once take a thread, and its stack, each. -/
set_option Elab.async false

/-! ### Helpers -/

/-- Operand registers with a different value in each. -/
def regs : Operands := { k := 3, u0 := 0x11, u1 := 0x12, n := 9, bs := [0x21, 0x22], q0 := 1, q1 := 2, q2 := 3, q3 := 4, q4 := 5 }

/-- One axis with id 1, idle, the read time-out set. -/
def one : State :=
  { (State.reset.modAxis 0 fun a => { a with axisId := some 1 }) with nax := some 1, tRead := some 2 }

/-- Two axes with ids 1 and 2, every parameter set, in a phase. -/
def two (p : Phase) : State :=
  { ((State.reset.modAxis 0 fun a => { a with axisId := some 1 }).modAxis 1 fun a => { a with axisId := some 2 }) with
    nax := some 2, kp := some 5, kd := some 0, limit := some 100, period := some 10, tRead := some 2, phase := p }

/-- AxisState of axes 0 and 1 as in the vector of R263: positions 1000 and 0, velocities 0. -/
def twoValid (p : Phase) : State :=
  ((two p).setGroup 0 (some (1000, 0, 0))).setGroup 1 (some (0, 0, 0))

/-- The state an instruction leaves; the state itself if it leaves none. -/
def after (o : Step) (s : State) : State :=
  match o with
  | .next t => t
  | .fault _ => s
  | .refused _ => s

/-- A multi-turn-angle response (12345). -/
def angleReply : List Byte := [0x3E, 0x92, 0x01, 0x08, 0xD9, 0x39, 0x30, 0, 0, 0, 0, 0, 0, 0x69]

/-- A status-2 response (40, 100, 10000, 0x1234). -/
def statusReply : List Byte := [0x3E, 0x9C, 0x01, 0x07, 0xE2, 0x28, 0x64, 0x00, 0x10, 0x27, 0x34, 0x12, 0x09]

/-! ### Decoding: every row's OPSEL (R112), every wire row's header word (R113) -/

theorem test_opsel_codec :
    decode ⟨0x00, regs⟩ = .ok .csumClr ∧ decode ⟨0x01, regs⟩ = .ok (.csumAdd 0x11) ∧
    decode ⟨0x02, regs⟩ = .ok .csumRd ∧ decode ⟨0x03, regs⟩ = .ok (.csum8 [0x21, 0x22]) ∧
    decode ⟨0x04, regs⟩ = .ok (.build 0x11 0x12 [0x21, 0x22]) ∧ decode ⟨0x05, regs⟩ = .ok (.validate 9) :=
  ⟨rfl, rfl, rfl, rfl, rfl, rfl⟩

theorem test_opsel_decoders :
    decode ⟨0x08, regs⟩ = .ok (.decMtang [0x21, 0x22]) ∧ decode ⟨0x09, regs⟩ = .ok (.decStat2 [0x21, 0x22]) ∧
    decode ⟨0x0A, regs⟩ = .ok (.decStang [0x21, 0x22]) := ⟨rfl, rfl, rfl⟩

theorem test_opsel_quantizer :
    decode ⟨0x0C, regs⟩ = .ok (.quant 1 2 3 9) ∧ decode ⟨0x0D, regs⟩ = .ok (.imppack 1 2 3 4 5) := ⟨rfl, rfl⟩

theorem test_opsel_session :
    decode ⟨0x10, regs⟩ = .ok (.transact 3 0x11 [0x21, 0x22] 9) ∧
    decode ⟨0x11, regs⟩ = .ok (.fireforget 3 0x11 [0x21, 0x22]) ∧
    decode ⟨0x12, regs⟩ = .ok (.refresh 3) ∧ decode ⟨0x13, regs⟩ = .ok (.isvalid 3) := ⟨rfl, rfl, rfl, rfl⟩

theorem test_opsel_control :
    decode ⟨0x14, regs⟩ = .ok .computePd ∧ decode ⟨0x18, regs⟩ = .ok .run ∧ decode ⟨0x19, regs⟩ = .ok .cancel :=
  ⟨rfl, rfl, rfl⟩

theorem test_opsel_actions_reads :
    decode ⟨0x20, regs⟩ = .ok (.enable 3) ∧ decode ⟨0x21, regs⟩ = .ok (.disable 3) ∧
    decode ⟨0x22, regs⟩ = .ok (.stop 3) ∧ decode ⟨0x23, regs⟩ = .ok (.clrerr 3) ∧
    decode ⟨0x24, regs⟩ = .ok (.zero 3) ∧ decode ⟨0x25, regs⟩ = .ok (.zero95 3) ∧
    decode ⟨0x26, regs⟩ = .ok (.clrturn 3) ∧ decode ⟨0x27, regs⟩ = .ok (.rdstat1 3) ∧
    decode ⟨0x28, regs⟩ = .ok (.rdstat2 3) ∧ decode ⟨0x29, regs⟩ = .ok (.rdenc 3) ∧
    decode ⟨0x2A, regs⟩ = .ok (.rdmtang 3) ∧ decode ⟨0x2B, regs⟩ = .ok (.rdstang 3) :=
  ⟨rfl, rfl, rfl, rfl, rfl, rfl, rfl, rfl, rfl, rfl, rfl, rfl⟩

theorem test_opsel_scalars :
    decode ⟨0x2C, regs⟩ = .ok (.openloop 3 [0x21, 0x22]) ∧ decode ⟨0x2D, regs⟩ = .ok (.torque 3 1) ∧
    decode ⟨0x2E, regs⟩ = .ok (.speed 3 1) ∧ decode ⟨0x2F, regs⟩ = .ok (.pos 3 1) ∧
    decode ⟨0x30, regs⟩ = .ok (.posspd 3 1 2) ∧ decode ⟨0x31, regs⟩ = .ok (.scpos 3 0x11 1) ∧
    decode ⟨0x32, regs⟩ = .ok (.scposspd 3 0x11 1 2) ∧ decode ⟨0x33, regs⟩ = .ok (.incpos 3 1) ∧
    decode ⟨0x34, regs⟩ = .ok (.incposspd 3 1 2) ∧ decode ⟨0x35, regs⟩ = .ok (.impedance 3 1 2 3 4 5) ∧
    decode ⟨0x36, regs⟩ = .ok (.paramrd 3 [0x21, 0x22]) ∧ decode ⟨0x37, regs⟩ = .ok (.paramwrRam 3 [0x21, 0x22]) ∧
    decode ⟨0x38, regs⟩ = .ok (.paramwrRom 3 [0x21, 0x22]) :=
  ⟨rfl, rfl, rfl, rfl, rfl, rfl, rfl, rfl, rfl, rfl, rfl, rfl, rfl⟩

/-- The gaps of R112 (`93_implementation_defined.md` U14). -/
theorem test_opsel_gaps :
    ∀ c ∈ [0x06, 0x07, 0x0B, 0x0E, 0x0F, 0x15, 0x17, 0x1A, 0x1F, 0x39, 0x3F],
      decode ⟨c, regs⟩ = .error (.unknownOpsel c) := by
  simp only [List.forall_mem_cons]; exact ⟨rfl, rfl, rfl, rfl, rfl, rfl, rfl, rfl, rfl, rfl, rfl, by simp⟩

theorem test_header_words_actions_reads :
    decodeTableWord 32 0x3E880000 = some (.enable 0) ∧ decodeTableWord 32 0x3E800000 = some (.disable 0) ∧
    decodeTableWord 32 0x3E810000 = some (.stop 0) ∧ decodeTableWord 32 0x3E9B0000 = some (.clrerr 0) ∧
    decodeTableWord 32 0x3E190000 = some (.zero 0) ∧ decodeTableWord 32 0x3E950000 = some (.zero95 0) ∧
    decodeTableWord 32 0x3E930000 = some (.clrturn 0) ∧ decodeTableWord 32 0x3E9A0000 = some (.rdstat1 0) ∧
    decodeTableWord 32 0x3E9C0000 = some (.rdstat2 0) ∧ decodeTableWord 32 0x3E900000 = some (.rdenc 0) ∧
    decodeTableWord 32 0x3E920000 = some (.rdmtang 0) ∧ decodeTableWord 32 0x3E940000 = some (.rdstang 0) := by
  decide +kernel

theorem test_header_words_scalars :
    decodeTableWord 32 0x3EA00000 = some (.openloop 0 []) ∧ decodeTableWord 32 0x3EA10002 = some (.torque 0 0) ∧
    decodeTableWord 32 0x3EA20004 = some (.speed 0 0) ∧ decodeTableWord 32 0x3EA30008 = some (.pos 0 0) ∧
    decodeTableWord 32 0x3EA4000C = some (.posspd 0 0 0) ∧ decodeTableWord 32 0x3EA50004 = some (.scpos 0 0 0) ∧
    decodeTableWord 32 0x3EA60008 = some (.scposspd 0 0 0 0) ∧ decodeTableWord 32 0x3EA70004 = some (.incpos 0 0) ∧
    decodeTableWord 32 0x3EA80008 = some (.incposspd 0 0 0) ∧ decodeTableWord 32 0x3E400000 = some (.paramrd 0 []) ∧
    decodeTableWord 32 0x3E420000 = some (.paramwrRam 0 []) ∧
    decodeTableWord 32 0x3E440000 = some (.paramwrRom 0 []) := by
  decide +kernel

/-- The header word of `0xA8` is that of two rows, and a decoder reports both (R98, R113). -/
theorem test_shared_header_word :
    decodeTableRows 32 0x3EA80008 = [.incposspd 0 0 0, .impedance 0 0 0 0 0 0] ∧
    decodeTableRows 32 0x3E880000 = [.enable 0] ∧ decodeTableRows 8 0x35 = [.impedance 0 0 0 0 0 0] := by decide +kernel

/-- The format column: OPENLOOP has no frames without a payload, PARAMRD has (R113). -/
theorem test_frame_formats :
    decodeFrame [0x3E, 0xA0, 0x01, 0x00, 0xDF] = .error .badFormat ∧
    decodeFrame [0x3E, 0x40, 0x01, 0x00, 0x7F] = .ok ⟨[0x36], 0x01, []⟩ ∧
    decodeFrame [0x3E, 0xA9, 0x01, 0x00, 0xE8] = .error .unknownCommand := by decide +kernel

/-- A torque header with another length, an unknown command id, a wrong marker. -/
theorem test_header_words_refused :
    decodeTableWord 32 0x3EA10003 = none ∧ decodeTableWord 32 0x3EA90000 = none ∧
    decodeTableWord 32 0x3F880000 = none := by decide +kernel

theorem test_step_runs_placed_word :
    step (State.reset.withFetchWord 8 0x19) = exec .cancel (State.reset.withFetchWord 8 0x19).taken := rfl

/-! ### Well-formedness: an ill-formed term for each check -/

theorem test_wf_refuses_payloads :
    (Instr.openloop 0 []).wellFormed = false ∧ (Instr.openloop 0 (List.replicate 256 0)).wellFormed = false ∧
    (Instr.paramrd 0 (List.replicate 256 0)).wellFormed = false ∧
    (Instr.paramwrRam 0 (List.replicate 256 0)).wellFormed = false ∧
    (Instr.paramwrRom 0 (List.replicate 256 0)).wellFormed = false ∧
    (Instr.build 0x42 1 (List.replicate 256 0)).wellFormed = false ∧
    (Instr.transact 0 0x42 (List.replicate 256 0) 0).wellFormed = false ∧
    (Instr.fireforget 0 0x42 (List.replicate 256 0)).wellFormed = false := by decide +kernel

theorem test_wf_refuses_directions_and_axis_ids :
    (Instr.scpos 0 2 90).wellFormed = false ∧ (Instr.scposspd 0 3 90 1).wellFormed = false ∧
    (Instr.build 0x88 0 []).wellFormed = false ∧ (Instr.build 0x88 33 []).wellFormed = false := by decide +kernel

theorem test_wf_refuses_lengths :
    (Instr.validate 0).wellFormed = false ∧ (Instr.decMtang [0]).wellFormed = false ∧
    (Instr.decStat2 []).wellFormed = false ∧ (Instr.decStang [0, 0, 0]).wellFormed = false := by decide +kernel

theorem test_wf_refuses_quantizer_operands :
    (Instr.quant 1 1 1 8).wellFormed = false ∧ (Instr.quant 0 0 1 0).wellFormed = false ∧
    (Instr.quant 0 0 1 17).wellFormed = false := by decide +kernel

theorem test_wf_accepts :
    (Instr.openloop 0 [0]).wellFormed = true ∧ (Instr.build 0x88 32 []).wellFormed = true ∧
    (Instr.quant 0 0 1 16).wellFormed = true ∧ (Instr.scpos 0 1 90).wellFormed = true := by decide +kernel

/-! ### Vectors of `95_test_vectors.md` -/

theorem test_csum8 :
    csum8 [0x3E, 0x88, 0x01, 0x00] = 0xC7 ∧ csum8 [0xFF, 0x01] = 0x00 ∧ csum8 [0xFF, 0xFF] = 0xFE ∧
    csum8 (List.replicate 255 0xFF) = 0x01 := by decide +kernel

theorem test_csum_steps :
    (after (exec (.csumAdd 0x01) { State.reset with acc := 0xFF }) State.reset).acc = 0x00 ∧
    (after (exec (.csumAdd 0x02) { State.reset with acc := 0xE0 }) State.reset).acc = 0xE2 ∧
    (after (exec .csumClr { State.reset with acc := 0xC7 }) State.reset).acc = 0x00 ∧
    (after (exec .csumRd { State.reset with acc := 0xE2 }) State.reset).port.result = .ok (.byte 0xE2) := by
  decide +kernel

theorem test_build :
    (after (exec (.build 0x88 0x20 []) State.reset) State.reset).host.txbuf = [0x3E, 0x88, 0x20, 0x00, 0xE6] ∧
    (after (exec (.build 0xA0 5 [1, 2, 3]) State.reset) State.reset).host.txbuf =
      [0x3E, 0xA0, 0x05, 0x03, 0xE6, 0x01, 0x02, 0x03, 0x06] ∧
    (after (exec (.build 0xFF 1 [0]) State.reset) State.reset).host.txbuf =
      [0x3E, 0xFF, 0x01, 0x01, 0x3F, 0x00, 0x00] := by decide +kernel

theorem test_build_refuses :
    (after (exec (.build 0x88 33 []) State.reset) State.reset).port.result = .refused .encodeRange ∧
    (after (exec (.build 0x42 1 (List.replicate 256 0)) State.reset) State.reset).port.result =
      .refused .encodeRange := by decide +kernel

theorem test_validate :
    (after (exec (.validate 14) { State.reset with host := { rxbuf := angleReply } }) State.reset).port.result =
      .ok (.bytes [0x39, 0x30, 0, 0, 0, 0, 0, 0]) ∧
    (after (exec (.validate 13) { State.reset with host := { rxbuf := angleReply } }) State.reset).port.result =
      .err .timeout := by decide +kernel

theorem test_validate_order :
    validateFrame [0x00, 0x92, 0x01] 14 = .error .timeout ∧
    validateFrame (0x00 :: angleReply.tail.set 12 0x00) 14 = .error .invalidHeader ∧
    validateFrame (angleReply.set 7 0x01) 14 = .error .checksum ∧
    validateFrame [0x3E, 0x88, 0x01, 0x00, 0x00] 5 = .ok [] ∧ validateFrame [0x3D] 1 = .error .invalidHeader ∧
    validateFrame [0x3E, 0x88, 0x01, 0x00, 0xC7, 0x01] 6 = .error .checksum := by decide +kernel

theorem test_streaming_form :
    (serialize 0xA1 0x01 [0xCE, 0xFF]).1 = [0x3E, 0xA1, 0x01, 0x02, 0xE2, 0xCE, 0xFF, 0xCD] ∧
    deserialize angleReply 14 = .ok [0x39, 0x30, 0, 0, 0, 0, 0, 0] := by decide +kernel

theorem test_no_payload_frames :
    (after (exec (.enable 0) one) one).host.txbuf = [0x3E, 0x88, 0x01, 0x00, 0xC7] ∧
    (after (exec (.disable 0) one) one).host.txbuf = [0x3E, 0x80, 0x01, 0x00, 0xBF] ∧
    (after (exec (.stop 0) one) one).host.txbuf = [0x3E, 0x81, 0x01, 0x00, 0xC0] ∧
    (after (exec (.clrerr 0) one) one).host.txbuf = [0x3E, 0x9B, 0x01, 0x00, 0xDA] ∧
    (after (exec (.zero 0) one) one).host.txbuf = [0x3E, 0x19, 0x01, 0x00, 0x58] ∧
    (after (exec (.zero95 0) one) one).host.txbuf = [0x3E, 0x95, 0x01, 0x00, 0xD4] := by decide +kernel

theorem test_read_frames :
    (after (exec (.clrturn 0) one) one).host.txbuf = [0x3E, 0x93, 0x01, 0x00, 0xD2] ∧
    (after (exec (.rdstat1 0) one) one).host.txbuf = [0x3E, 0x9A, 0x01, 0x00, 0xD9] ∧
    (after (exec (.rdstat2 0) one) one).host.txbuf = [0x3E, 0x9C, 0x01, 0x00, 0xDB] ∧
    (after (exec (.rdenc 0) one) one).host.txbuf = [0x3E, 0x90, 0x01, 0x00, 0xCF] ∧
    (after (exec (.rdmtang 0) one) one).host.txbuf = [0x3E, 0x92, 0x01, 0x00, 0xD1] ∧
    (after (exec (.rdstang 0) one) one).host.txbuf = [0x3E, 0x94, 0x01, 0x00, 0xD3] := by decide +kernel

theorem test_raw_frames :
    (after (exec (.openloop 0 [0x64, 0x00]) one) one).host.txbuf = [0x3E, 0xA0, 0x01, 0x02, 0xE1, 0x64, 0x00, 0x64] ∧
    (after (exec (.paramrd 0 []) one) one).host.txbuf = [0x3E, 0x40, 0x01, 0x00, 0x7F] ∧
    (after (exec (.paramwrRam 0 [0x0A, 1, 0, 0, 0, 0, 0]) one) one).host.txbuf =
      [0x3E, 0x42, 0x01, 0x07, 0x88, 0x0A, 0x01, 0, 0, 0, 0, 0, 0x0B] ∧
    (after (exec (.paramwrRom 0 [1, 2, 3]) one) one).host.txbuf =
      [0x3E, 0x44, 0x01, 0x03, 0x86, 0x01, 0x02, 0x03, 0x06] := by decide +kernel

/-- The rows of section 2.4 whose frames all four rounding rules share. -/
theorem test_scalar_payloads :
    ∀ r ∈ [ScaleRound.trunc, .floor, .nearestEven, .nearestUp],
      torquePayloadBy r 3000 = [0xFF, 0x07] ∧ torquePayloadBy r (-3000) = [0x01, 0xF8] ∧
      torquePayloadBy r (-100) = [0x9C, 0xFF] ∧ scaleI32By r (-90) = .ok [0xD8, 0xDC, 0xFF, 0xFF] ∧
      scaleI32By r (2147483648 / 100) = .error .encodeRange ∧
      scaleI64By r (-360) = .ok [0x60, 0x73, 0xFF, 0xFF, 0xFF, 0xFF, 0xFF, 0xFF] ∧
      singleCirclePayloadBy r 1 (35999 / 100) = .ok [0x01, 0x9F, 0x8C, 0x00] ∧
      singleCirclePayloadBy r 0 (-1 / 100) = .error .encodeRange := by decide +kernel

/-- The rows of section 2.4 that tell the four rounding rules apart. -/
theorem test_rounding_rules :
    torquePayloadBy .trunc (-3 / 2) = [0xFF, 0xFF] ∧ torquePayloadBy .floor (-3 / 2) = [0xFE, 0xFF] ∧
    torquePayloadBy .nearestEven (5 / 2) = [0x02, 0x00] ∧ torquePayloadBy .nearestUp (5 / 2) = [0x03, 0x00] ∧
    torquePayloadBy .nearestEven (-3 / 2) = [0xFE, 0xFF] ∧ torquePayloadBy .nearestUp (-3 / 2) = [0xFF, 0xFF] := by
  decide +kernel

theorem test_decoders :
    decMtang [0x60, 0x73, 0xFF, 0xFF, 0xFF, 0xFF, 0xFF, 0xFF] = some (-36000) ∧
    decStat2 [0x1F, 0xFB, 0xFF, 0x38, 0xFF, 0xC8, 0x00] = some ⟨31, -5, -200, 200⟩ ∧
    decStang [0xFF, 0xFF, 0xFF, 0xFF] = some 4294967295 := by decide +kernel

theorem test_decoders_at_the_port :
    (after (exec (.decMtang [0x39, 0x30, 0, 0, 0, 0, 0, 0]) State.reset) State.reset).port.result =
      .ok (.angle64 12345 (12345 / 100)) ∧
    (after (exec (.decStat2 [0]) State.reset) State.reset).port.result = .refused .decodeLength ∧
    (after (exec (.decStang [0xFF, 0xFF, 0xFF, 0xFF]) State.reset) State.reset).port.result =
      .ok (.angle32 4294967295 (4294967295 / 100)) := by decide +kernel

theorem test_quant_ties :
    quantBy .halfEven 3 0 10 4 = 4 ∧ quantBy .halfUp 3 0 10 4 = 5 ∧ quantBy .halfEven (1 / 2) 0 1 1 = 0 ∧
    quantBy .halfUp (1 / 2) 0 1 1 = 1 ∧ quantBy .halfEven 90 (-360) 360 16 = 0x9FFF ∧
    quantBy .halfUp 1000 (-360) 360 16 = 65535 ∧ dequant 40959 (-360) 360 16 = 393192 / 4369 := by decide +kernel

theorem test_quant_refuses :
    (after (exec (.quant 1 1 1 8) State.reset) State.reset).port.result = .refused .quantRange ∧
    (after (exec (.quant 0 0 1 17) State.reset) State.reset).port.result = .refused .quantRange := by decide +kernel

theorem test_impedance_layouts :
    packBy .lePacked (impFieldsBy .halfEven 90 100 50 1 (3 / 2)) = [0xFF, 0x9F, 0x66, 0xA8, 0x19, 0x33, 0xD3, 0x85] ∧
    packBy .beMit (impFieldsBy .halfEven 90 100 50 1 (3 / 2)) = [0x9F, 0xFF, 0x86, 0x61, 0x9A, 0x33, 0x38, 0x5D] ∧
    packBy .lePacked (impFieldsBy .halfUp (-25 / 2) (333 / 10) 150 (1 / 4) (-10)) =
      [0x8E, 0x7B, 0x22, 0xD8, 0x4C, 0xCD, 0x30, 0x59] ∧
    packBy .lePacked (impFieldsBy .halfEven 1000 (-9999) 600 (-1) 40) =
      [0xFF, 0xFF, 0x00, 0xF0, 0xFF, 0x00, 0xF0, 0xFF] := by decide +kernel

/-- Two stale bytes are discarded, the answer is read, and the two bytes after it stay (section 2.8). -/
theorem test_transact :
    let s := { one.modAxis 0 (fun a => { a with rxq := [0xAA, 0xBB] }) with
      links := [{}, { arrive := angleReply ++ [0x01, 0x02] }] }
    let t := after (exec (.transact 0 0x92 [] 14) s) s
    t.port.result = .ok (.bytes [0x39, 0x30, 0, 0, 0, 0, 0, 0]) ∧ (t.axis 0).rxq = [0x01, 0x02] ∧
      (t.axis 0).txh = [0x3E, 0x92, 0x01, 0x00, 0xD1] := by decide +kernel

/-- Nine bytes in time and no more: a time-out that consumes them, and the failing write (section 2.8). -/
theorem test_transact_errors :
    (let s := { one with links := [{}, { arrive := angleReply.take 9, dt := 1 }] }
     let t := after (exec (.transact 0 0x92 [] 14) s) s
     t.port.result = .err .timeout ∧ (t.axis 0).rxq = [] ∧ t.now = 2) ∧
    (let s := { one with links := [{ sent := some 2 }] }
     let t := after (exec (.transact 0 0x92 [] 14) s) s
     t.port.result = .err .transport ∧ (t.axis 0).txh = [0x3E, 0x92]) := by decide +kernel

/-- A read takes at most `T_READ` = 2, also when its bytes come, and time waits for a read in progress (R233). -/
theorem test_read_is_bounded :
    (let s := { one with links := [{ dt := 5 }, { arrive := angleReply, dt := 9 }] }
     let t := after (exec (.transact 0 0x92 [] 14) s) s
     t.port.result = .ok (.bytes [0x39, 0x30, 0, 0, 0, 0, 0, 0]) ∧ t.now = 7) ∧
    (let s := { one.modAxis 0 (fun a => { a with wait := some 4 }) with now := 5 }
     (after (agentMove (.time 9) s) s).now = 6) ∧ (after (agentMove (.time 9) one) one).now = 9 := by decide +kernel

/-- A byte arrives between the discard and the write that then fails, and one on another axis (R66). -/
theorem test_arrivals_during_an_operation :
    let s := { one.modAxis 0 (fun a => { a with rxq := [0xAA] }) with
      links := [{ sent := some 2, arrive := [0xBB], others := [(7, [0xCC]), (0, [0xDD])], dt := 3 }] }
    let t := after (exec (.transact 0 0x92 [] 14) s) s
    t.port.result = .err .transport ∧ (t.axis 0).rxq = [0xBB] ∧ (t.axis 7).rxq = [0xCC] ∧ t.now = 3 := by decide +kernel

theorem test_fireforget_reports :
    let s := { one with links := [{ sent := some 3 }] }
    let t := after (exec (.fireforget 0 0xA8 [0x00, 0x80, 0x00, 0x08, 0x00, 0x00, 0x00, 0x80]) s) s
    t.port.result = .ok .unit ∧ (t.axis 0).txh = [0x3E, 0xA8, 0x01] ∧ t.rlog.length = 1 := by decide +kernel

/-- Program P2: a REFRESH that succeeds, and one whose second transaction fails. -/
theorem test_refresh :
    (let s := { one with links := [{}, { arrive := angleReply }, {}, { arrive := statusReply }] }
     let t := after (exec (.refresh 0) s) s
     (t.axis 0).group = (some 12345, some 10000, some 100) ∧ t.rlog = []) ∧
    (let s := { one.setGroup 0 (some (1, 2, 3)) with
       links := [{}, { arrive := angleReply }, {}, { arrive := statusReply.set 7 0x01 }] }
     let t := after (exec (.refresh 0) s) s
     (t.axis 0).group = (none, none, none) ∧ t.rlog = [.err 0 0 .refreshStatus .checksum]) := by decide +kernel

theorem test_isvalid :
    (after (exec (.isvalid 0) State.reset) State.reset).port.result = .ok (.bit false) ∧
    (after (exec (.isvalid 1) (twoValid .sleep)) State.reset).port.result = .ok (.bit true) := by decide +kernel

/-- The vector of R263 and its clipped form (section 2.9). -/
theorem test_compute_pd :
    (after (exec .computePd (twoValid .idle)) State.reset).port.result = .ok (.torques (-50) 50) ∧
    (after (exec .computePd { twoValid .idle with kp := some 50 }) State.reset).port.result =
      .ok (.torques (-100) 100) := by decide +kernel

theorem test_compute_pd_refuses :
    (after (exec .computePd (two .idle)) State.reset).port.result = .err .controlPrecondition ∧
    (after (exec .computePd (twoValid .sleep)) State.reset).port.result = .refused .busy := by decide +kernel

theorem test_run :
    (after (exec .run (two .halted)) State.reset).phase = .startup ∧
    (after (exec .run { two .idle with kp := none }) State.reset).port.result = .refused .config ∧
    (after (exec .run { two .idle with nax := some 1 }) State.reset).port.result = .refused .config ∧
    (after (exec .run (two .sleep)) State.reset).port.result = .refused .busy := by decide +kernel

theorem test_cancel : (after (exec .cancel (two .refresh)) State.reset).cancel = true := by decide +kernel

theorem test_impedance_is_busy :
    (after (exec (.impedance 0 0 0 0 0 0) (two .sleep)) State.reset).port.result = .refused .busy := by decide +kernel

/-- `ELAPSED` equal to `PERIOD` is an overrun; one less sleeps (R271). -/
theorem test_overrun_equality :
    (after (sequencerMove { two .timing with tStart := 50, now := 60, ticks := 1 }) State.reset).rlog =
      [.overrun 1 10] ∧
    (after (sequencerMove { two .timing with tStart := 50, now := 59 }) State.reset).phase = .sleep := by
  decide +kernel

/-- One required axis invalid: a skipped tick, and no frame for either axis (R260). -/
theorem test_skip :
    (after (sequencerMove { (two .check).setGroup 0 (some (1, 2, 3)) with ticks := 1 }) State.reset).rlog =
      [.skip 1] := by decide +kernel

/-- The enable of axis 1 fails, and the block goes to `Shutdown` (compare program P5). -/
theorem test_startup_failure :
    let s := { (two .startup).modAxis 1 (fun a => { a with wait := some 3 }) with seqAxis := 1, now := 5, links := [{ readFails := true }] }
    ∃ t, sequencerMove s = .next t ∧ t.phase = .shutdown ∧ (t.axis 1).life = .disabled := by
  refine ⟨_, rfl, ?_, ?_⟩ <;> decide +kernel

/-- The host writes both setpoints after the position was sampled: the later write is seen and the earlier is not
(`20_memory.md` R82(5)). -/
theorem test_concurrent_setpoint_writes :
    let s := { (two .dispatch).modAxis 0 (fun a => { a with wstep := .cmd, pDes := 1, vDes := 2 }) with mode := .imp }
    let t := after (runMoves [.sample 0 .pDes, .write (.pDes 0 10), .write (.vDes 0 20)] s) s
    (t.axis 0).setpoints = (1, 20, 0) := by decide +kernel

/-- `ELAPSED` after a tick has ended (R37). -/
theorem test_elapsed :
    (hostReadReg .elapsed { State.reset with tStart := 50, tEnd := 57 }).port.result = .ok (.nat 7) := by decide +kernel

/-! ### Witnesses: a concrete state and operands for the hypotheses of each statement, and of each of its clauses -/

theorem witness_BuildMakesTheFrame :
    ((List.replicate 255 (0 : Byte)).length ≤ 255 ∧ 1 ≤ (1 : Byte).toNat ∧ (1 : Byte).toNat ≤ 32) ∧
    ([] : List Byte).length ≤ 255 ∧ 1 ≤ (32 : Byte).toNat ∧ (32 : Byte).toNat ≤ 32 ∧
    255 < (List.replicate 256 (0 : Byte)).length ∧ (0 : Byte).toNat < 1 ∧ 32 < (33 : Byte).toNat := by decide +kernel

theorem witness_BuiltFrameProperties :
    buildFrame 0x88 1 [] = .ok [0x3E, 0x88, 0x01, 0x00, 0xC7] ∧
    buildFrame 0xA0 5 [1, 2, 3] = .ok [0x3E, 0xA0, 0x05, 0x03, 0xE6, 0x01, 0x02, 0x03, 0x06] := by decide +kernel

/-- The least length, and a state for each of the five outcomes. -/
theorem witness_ValidateChecks :
    1 ≤ 1 ∧ angleReply.length ≠ 13 ∧ (angleReply.set 0 0x3F)[0]? ≠ some 0x3E ∧ 5 ≤ 5 ∧
    angleReply[14 - 1]? = some (csum8 ((angleReply.drop 5).take (14 - 6))) ∧
    (angleReply.set 7 1)[14 - 1]? ≠ some (csum8 (((angleReply.set 7 1).drop 5).take (14 - 6))) := by decide +kernel

theorem witness_HeaderFieldsNotExamined : 1 ≤ 1 ∧ 1 ≤ 4 ∧ 4 ≤ 4 := by decide

theorem witness_RoundTripAndCorruption :
    let f : List Byte := [0x3E, 0xA0, 0x01, 0x01, 0xE0, 0x05, 0x05]
    buildFrame 0xA0 1 [5] = .ok f ∧ 1 ≤ ([5] : List Byte).length ∧
      ∀ i ∈ [0, 1, 4, 5, 6], i < f.length ∧ f[i]? ≠ some 0x77 := by decide +kernel

theorem witness_StreamingFormAgrees :
    buildFrame 0x88 1 [] = .ok [0x3E, 0x88, 0x01, 0x00, 0xC7] ∧ angleReply.length = 14 ∧
    ([0x3E] : List Byte).length = 1 := by decide +kernel

theorem witness_PortDecodesItsTable :
    let s : State := { State.reset with port := { opsel := 0x3F, start := true } }
    decode ⟨0x18, regs⟩ = .ok .run ∧ s.port.start = true ∧ decode s.placed = .error (.unknownOpsel 0x3F) :=
  ⟨rfl, rfl, rfl⟩

theorem witness_HeadersAreUnambiguous :
    (rowsOfHeader 0x3EA80108).map WireRow.opsel = [0x34, 0x35] ∧
    (rowsOfHeader 0x3E882000).map WireRow.opsel = [0x20] ∧
    0x3EA82008 < 2 ^ 32 ∧ BitVec.ofNat 32 0x3EA82008 &&& 0xFFFF00FF = 0x3EA80008 ∧
    decodeFrame [0x3E, 0x88, 0x01, 0x00, 0xC7] = .ok ⟨[0x20], 0x01, []⟩ ∧
    decodeFrame [0x3E, 0xA1, 0x01, 0x02, 0xE2, 0x64, 0x00, 0x64] = .ok ⟨[0x2D], 0x01, [0x64, 0x00]⟩ := by decide +kernel

theorem witness_WireFramesDecodeBack :
    encodeFrame 1 (.enable 0) = some (.ok [0x3E, 0x88, 0x01, 0x00, 0xC7]) ∧
    encodeFrame 1 (.openloop 0 [0x64, 0x00]) = some (.ok [0x3E, 0xA0, 0x01, 0x02, 0xE1, 0x64, 0x00, 0x64]) := by
  decide +kernel

theorem witness_RoundingFunctions :
    |(nearestEvenQ (1 / 2) : Rat) - 1 / 2| = 1 / 2 ∧ |(nearestEvenQ (-3 / 2) : Rat) - (-3 / 2)| = 1 / 2 ∧
    (0 : Rat) ≤ 0 ∧ (-1 / 3 : Rat) ≤ 0 := by decide +kernel

theorem witness_ScaledOperands :
    ∀ r ∈ [ScaleRound.trunc, .floor, .nearestEven, .nearestUp],
      toIntBy r (2147483647 / 100 * 100) = 2 ^ 31 - 1 ∧ toIntBy r (2147483648 / 100 * 100) = 2 ^ 31 ∧
      toIntBy r (9223372036854775807 / 100 * 100) = 2 ^ 63 - 1 ∧ toIntBy r (9223372036854775808 / 100 * 100) = 2 ^ 63 ∧
      toIntBy r (65535 / 100 * 100) = 65535 ∧ toIntBy r (65536 / 100 * 100) = 65536 ∧
      toIntBy r (-1 / 100 * 100) = -1 := by decide +kernel

/-- An axis id at each end of its range, and an unset one: the hypotheses of the wire commands. -/
theorem witness_NoPayloadCommands :
    one.usableId 0 = some 1 ∧ (one.modAxis 0 fun a => { a with axisId := some 32 }).usableId 0 = some 32 ∧
    (State.reset.axis 0).axisId = none := by decide +kernel

theorem witness_RawPayloadCommands :
    one.usableId 0 = some 1 ∧ 1 ≤ ([0] : List Byte).length ∧ (List.replicate 255 (0 : Byte)).length ≤ 255 ∧
    255 < (List.replicate 256 (0 : Byte)).length ∧ (State.reset.axis 31).axisId = none := by decide +kernel

/-- Whatever `SCALE_ROUND` is, an operand in range and one out of range. -/
theorem witness_ScalarCommands :
    one.usableId 0 = some 1 ∧
    (toInt (2147483647 / 100 * 100) = 2 ^ 31 - 1 ∧ toInt (2147483648 / 100 * 100) = 2 ^ 31) ∧
    (toInt (-9223372036854775808 / 100 * 100) = -2 ^ 63 ∧ toInt (-9223372036854775809 / 100 * 100) = -2 ^ 63 - 1) ∧
    (State.reset.axis 0).axisId = none := by
  refine ⟨by decide +kernel, ?_, ?_, by decide +kernel⟩ <;> unfold toInt <;>
    cases Config.scaleRound <;> decide +kernel

theorem witness_CompoundCommands :
    one.usableId 0 = some 1 ∧ ((0 : Byte) = 0 ∨ (0 : Byte) = 1) ∧ ((1 : Byte) = 0 ∨ (1 : Byte) = 1) ∧
    ¬((2 : Byte) = 0 ∨ (2 : Byte) = 1) ∧
    (toInt (65535 / 100 * 100) = 65535 ∧ toInt (65536 / 100 * 100) = 65536 ∧ toInt (-1 / 100 * 100) = -1) ∧
    (State.reset.axis 0).axisId = none := by
  refine ⟨by decide +kernel, by decide, by decide, by decide, ?_, by decide +kernel⟩
  unfold toInt; cases Config.scaleRound <;> decide +kernel

theorem witness_DecodersReadTheirFields :
    ([0, 0, 0, 0, 0, 0, 0, 0] : List Byte).length = 8 ∧ ([0, 0, 0, 0, 0, 0, 0] : List Byte).length = 7 ∧
    ([0, 0, 0, 0] : List Byte).length = 4 := by decide

theorem witness_QuantComputes :
    ((0 : Rat) < 1 ∧ 1 ≤ 1 ∧ 1 ≤ 16) ∧ ((0 : Rat) < 1 ∧ 1 ≤ 16 ∧ 16 ≤ 16) ∧ ¬(1 : Rat) < 1 ∧ 0 < 1 ∧ 16 < 17 := by
  decide +kernel

theorem witness_QuantMonotoneAndBounded :
    ((-360 : Rat) < 360 ∧ 1 ≤ 16 ∧ 16 ≤ 16) ∧ (0 : Rat) ≤ 1 ∧ (-360 : Rat) ≤ -360 ∧ (360 : Rat) ≤ 360 := by
  decide +kernel

theorem witness_DequantWithinHalfStep :
    ((-360 : Rat) < 360 ∧ (-360 : Rat) ≤ -360 ∧ (-360 : Rat) ≤ 360) ∧ ((0 : Rat) < 1 ∧ (0 : Rat) ≤ 1 ∧ (1 : Rat) ≤ 1) := by
  decide +kernel

theorem witness_LePackedLayout : ([0x8E, 0x83, 0, 0x48, 0x0A, 0x33, 3, 0x80] : List Byte).length = 8 := by decide

/-- A write that succeeds and one that fails, for the operations that only send. -/
theorem witness_ImpedanceSendsItsFrame :
    one.busy = false ∧ one.usableId 0 = some 1 ∧
    ({ one with links := [{}] } : State).drawLink.1.sent = none ∧
    ({ one with links := [{ sent := some 3 }] } : State).drawLink.1.sent = some 3 := by decide +kernel

theorem witness_FireforgetSendsAndReports :
    one.busy = false ∧ one.usableId 0 = some 1 ∧ ([] : List Byte).length ≤ 255 ∧
    ({ one with links := [{}] } : State).drawLink.1.sent = none ∧
    ({ one with links := [{ sent := some 0 }] } : State).drawLink.1.sent = some 0 := by decide +kernel

/-- A failing write; then a failing read, enough bytes, too few bytes, and an operation without a reply. -/
theorem witness_TransactFollowsItsSteps :
    one.busy = false ∧ one.usableId 0 = some 1 ∧ one.tRead.isSome = true ∧
    ({ one with links := [{ sent := some 2 }] } : State).drawLink.1.sent = some 2 ∧
    (let s : State := { one with links := [{}, { readFails := true }] }
     s.drawLink.1.sent = none ∧ s.drawLink.2.drawLink.1.readFails = true) ∧
    (let s : State := { one with links := [{ arrive := angleReply.take 2 }, { arrive := angleReply.drop 2 }] }
     s.drawLink.2.drawLink.1.readFails = false ∧
       14 ≤ (s.drawLink.1.arrive ++ s.drawLink.2.drawLink.1.arrive).length ∧
       ¬15 ≤ (s.drawLink.1.arrive ++ s.drawLink.2.drawLink.1.arrive).length) := by decide +kernel

theorem witness_ChannelOperationRefusals :
    ({ one with phase := .sleep } : State).busy = true ∧ (State.reset.busy = false ∧ (State.reset.axis 0).axisId = none) ∧
    (({ one with tRead := none } : State).busy = false ∧ ({ one with tRead := none } : State).tRead = none ∧ 0 < 1) ∧
    (one.busy = false ∧ 255 < (List.replicate 256 (0 : Byte)).length ∧ one.usableId 0 = some 1 ∧
      one.tRead.isSome = true) := by decide +kernel

/-- The three ways of a REFRESH: both transactions succeed, the first fails, the second fails. -/
theorem witness_RefreshRunsTwoTransactions :
    (let s : State := { one with links := [{}, { arrive := angleReply }, {}, { arrive := statusReply }] }
     s.busy = false ∧ s.usableId 0 = some 1 ∧ s.tRead.isSome = true ∧
       (hostTransact s 0 0x92 [] 14).1 = .ok [0x39, 0x30, 0, 0, 0, 0, 0, 0] ∧
       (hostTransact (hostTransact s 0 0x92 [] 14).2 0 0x9C [] 13).1 = .ok [0x28, 0x64, 0, 0x10, 0x27, 0x34, 0x12]) ∧
    (hostTransact { one with links := [{}, {}] } 0 0x92 [] 14).1 = .err .timeout ∧
    (hostTransact { one with links := [{}, { readFails := true }] } 0 0x9C [] 13).1 = .err .transport := by
  decide +kernel

theorem witness_RefreshIsAllOrNothing :
    (∃ u, exec (.refresh 0) { one with links := [{}, { arrive := angleReply }, {}, { arrive := statusReply }] } = .next u ∧
      (u.axis 0).data.isSome = true) ∧
    (∃ u, exec (.refresh 0) { one with links := [{}, {}] } = .next u ∧ (u.axis 0).group = (none, none, none)) ∧
    ∃ u, exec (.refresh 0) { one with phase := .sleep } = .next u ∧ u.port.result = .refused .busy := by
  refine ⟨⟨_, rfl, ?_⟩, ⟨_, rfl, ?_⟩, ⟨_, rfl, ?_⟩⟩ <;> decide +kernel

theorem witness_IsvalidReadsTheGroup : AtomicGroup (twoValid .idle) ∧ AtomicGroup State.reset := by
  unfold AtomicGroup; decide +kernel

/-- A REFRESH of the host and a move of the axis's own worker that change AxisState. -/
theorem witness_OnlyRefreshWritesAxisState :
    (∃ t, step { one.place (encode (.refresh 0)) with
        links := [{}, { arrive := angleReply }, {}, { arrive := statusReply }] } = .next t ∧
      (t.axis 0).group ≠ (one.axis 0).group) ∧
    ∃ t, step { (twoValid .refresh).modAxis 0 (fun a => { a with wstep := .t1 }) with
        events := [.worker 0], slack := 1, links := [{ sent := some 0 }] } = .next t ∧
      (t.axis 0).group ≠ ((twoValid .refresh).axis 0).group := by
  refine ⟨⟨_, rfl, ?_⟩, ⟨_, rfl, ?_⟩⟩ <;> decide +kernel

theorem witness_CodecOperationsStayInside :
    Instr.enable 0 ∈ [Instr.enable 0, .disable 0] ∧ Instr.csumRd ∈ [Instr.csumRd, .csum8 []] ∧
    Instr.csumClr ∈ [Instr.csumClr, .csumAdd 0] := by decide +kernel

theorem witness_ChannelOperationsStayOnTheirAxis :
    Instr.transact 0 0x92 [] 14 ∈ [Instr.transact 0 0x92 [] 14, .refresh 0] ∧
    Instr.transact 0 0x92 [] 14 ≠ .refresh 0 ∧ Instr.refresh 0 ≠ .impedance 0 0 0 0 0 0 ∧ (1 : AxisIx) ≠ 0 := by
  decide +kernel

theorem witness_ComputePdAtTheHostPort :
    (let s := twoValid .idle
     s.busy = false ∧ s.nax = some 2 ∧ s.kp = some 5 ∧ s.kd = some 0 ∧ s.limit = some 100 ∧ (0 : Rat) ≤ 100 ∧
       (s.axis 0).group = (some 1000, some 0, some 0) ∧ (s.axis 1).group = (some 0, some 0, some 0)) ∧
    (let s := two .idle
     s.busy = false ∧ s.nax = some 2 ∧ s.kp.isSome = true ∧ s.kd.isSome = true ∧ s.limit.isSome = true ∧
       (s.axis 0).valid = false) ∧
    one.busy = false ∧ one.nax ≠ some 2 := by decide +kernel

theorem witness_RunStartsOrRefuses :
    ((two .sleep).phase ≠ .idle ∧ (two .sleep).phase ≠ .halted) ∧ (two .idle).phase = .idle ∧
    (two .halted).phase = .halted ∧ (two .idle).configured = true ∧ State.reset.configured = false := by decide +kernel

theorem witness_CancelIsLatchedUntilBetween :
    (two .between).phase = .between ∧ (two .dispatch).phase ≠ .between := by decide

theorem witness_ConfigurationWriteWindow :
    (two .startup).busy = true ∧ (two .halted).busy = false ∧ 0 < 1 ∧ 32 < 33 ∧ (1 ≤ 1 ∧ 32 ≤ 32) ∧
    (0 : Byte).toNat < 1 ∧ 32 < (33 : Byte).toNat ∧ (1 ≤ (1 : Byte).toNat ∧ (32 : Byte).toNat ≤ 32) ∧
    (-1 / 2 : Rat) < 0 ∧ (0 : Rat) ≤ 0 := by decide +kernel

/-- A register and its value, a valid and an invalid axis, and the last tick's stamps in order. -/
theorem witness_AnytimeHostAndDeviceMoves :
    ((RegSel.ticks, Value.nat State.reset.ticks) ∈ ([(.ticks, .nat State.reset.ticks)] : List (RegSel × Value))) ∧
    ((twoValid .sleep).axis 0).group = (some 1000, some 0, some 0) ∧ (State.reset.axis 0).pos = none ∧
    State.reset.tStart ≤ State.reset.tEnd ∧ (List.replicate 261 (0 : Byte)).length ≤ 261 ∧
    ¬(List.replicate 262 (0 : Byte)).length ≤ 261 := by decide +kernel

/-- A refused configuration write in a run. -/
theorem witness_ConfigurationIsImmutableInARun :
    let s : State := { two .sleep with events := [.write (.kp 7)], slack := 1 }
    s.busy = true ∧ ∃ t, step s = .next t ∧ t.port.result = .refused .busy :=
  ⟨by decide, _, rfl, by decide +kernel⟩

/-- The end of `Startup`: both axes are zeroed. -/
def started : State :=
  { ((two .startup).modAxis 0 fun a => { a with life := .zeroed }).modAxis 1 (fun a => { a with life := .zeroed }) with
    seqAxis := 2, events := [.sequencer], slack := 1 }

theorem started_inv : Inv started where
  atomicGroup := by unfold AtomicGroup; decide +kernel
  legalConfig := by
    have h : ∀ k, (started.axis k).axisId = none ∨ (started.axis k).axisId = some 1 ∨ (started.axis k).axisId = some 2 := by
      decide +kernel
    refine ⟨fun k v hv => ?_, ?_, ?_, ?_, ?_⟩
    · rcases h k with h | h | h <;> rw [h] at hv <;> cases hv <;> decide
    all_goals intro n hn; cases hn; decide +kernel
  bufferBounds := by unfold BufferBounds; decide +kernel
  configHeld := by unfold ConfigHeld; decide +kernel
  workersInPhase := by unfold WorkersInPhase; decide +kernel
  readsOwned := by
    have h : ∀ k, (started.axis k).wait = none := by decide +kernel
    intro k since hs; rw [h] at hs; cases hs
  torquesReady := by unfold TorquesReady; decide +kernel
  clockOrder := by unfold ClockOrder; decide +kernel
  tickChecked := by unfold TickChecked; decide +kernel
  axesRunning := by unfold AxesRunning; decide +kernel
  sleepEarned := by intro h; cases h
  startupPlace := by unfold StartupPlace; decide +kernel
  samplesOwned := by
    have h : ∀ k, (started.axis k).smp = {} := by decide +kernel
    intro k hk; exact absurd (h k) hk
  readsInTime := by
    have h : ∀ k, (started.axis k).wait = none := by decide +kernel
    intro k since T hs; rw [h] at hs; cases hs

/-- Several rows of the transition table, each taken by a step; the end of `Startup` from a well-kept state. -/
theorem witness_PhaseTransitionsAreComplete :
    (∃ t, step ((two .idle).place (encode .run)) = .next t ∧ t.phase = .startup) ∧
    (∃ t, step { two .between with events := [.sequencer], slack := 1 } = .next t ∧ t.phase = .tickStart) ∧
    (∃ t, step { two .tickStart with events := [.sequencer], slack := 1 } = .next t ∧ t.phase = .refresh) ∧
    (∃ t, step { two .check with events := [.sequencer], slack := 1 } = .next t ∧ t.phase = .timing) ∧
    (∃ t, step { twoValid .compute with events := [.sequencer], slack := 1 } = .next t ∧ t.phase = .dispatch) ∧
    (∃ t, step { two .timing with events := [.sequencer], slack := 1 } = .next t ∧ t.phase = .sleep) ∧
    (∃ t, step { two .shutdown with events := [.sequencer], slack := 1, seqAxis := 2 } = .next t ∧ t.phase = .halted) ∧
    Inv started ∧ ∃ t, step started = .next t ∧ t.phase = .between := by
  refine ⟨⟨_, rfl, ?_⟩, ⟨_, rfl, ?_⟩, ⟨_, rfl, ?_⟩, ⟨_, rfl, ?_⟩, ⟨_, rfl, ?_⟩, ⟨_, rfl, ?_⟩, ⟨_, rfl, ?_⟩, started_inv,
    ⟨_, rfl, ?_⟩⟩ <;> decide +kernel

theorem witness_StartupGoesAxisByAxis :
    (∃ t, sequencerMove { two .startup with seqAxis := 2 } = .next t ∧ t.phase = .between) ∧
    ({ two .startup with seqAxis := 2 } : State).currentAxis = none ∧
    (∃ t, sequencerMove { two .startup with links := [{ sent := some 4 }] } = .next t ∧ t.phase = .shutdown) ∧
    ((two .startup).currentAxis = some 0 ∧ ((two .startup).axis 0).axisId = some 1 ∧ ((two .startup).axis 0).wait = none) ∧
    (let s := (two .startup).modAxis 0 fun a => { a with wait := some 0 }
     s.currentAxis = some 0 ∧ (s.axis 0).wait ≠ none ∧ s.tRead.isSome = true) ∧
    (Config.zeroCmd = .zero19 ∨ Config.zeroCmd = .zero95) := by
  refine ⟨⟨_, rfl, ?_⟩, ?_, ⟨_, rfl, ?_⟩, ?_, ?_, by cases Config.zeroCmd <;> simp⟩ <;> decide +kernel

theorem witness_ShutdownAttemptsEveryAxis :
    (∃ t, sequencerMove { two .shutdown with seqAxis := 2 } = .next t ∧ t.phase = .halted) ∧
    ({ two .shutdown with seqAxis := 2 } : State).currentAxis = none ∧
    (∃ t, sequencerMove { two .shutdown with seqAxis := 1, links := [{ sent := some 4 }] } = .next t ∧ t.seqAxis = 2) ∧
    (let s : State := { two .shutdown with seqAxis := 1 }
     s.currentAxis = some 1 ∧ (s.axis 1).axisId = some 2 ∧ (s.axis 1).wait = none) ∧
    (let s := (two .shutdown).modAxis 0 fun a => { a with wait := some 0 }
     s.currentAxis = some 0 ∧ (s.axis 0).wait ≠ none ∧ s.tRead.isSome = true) := by
  refine ⟨⟨_, rfl, ?_⟩, ?_, ⟨_, rfl, ?_⟩, ?_, ?_⟩ <;> decide +kernel

theorem witness_TickStartAndCheck :
    (two .tickStart).phase = .tickStart ∧
    ((two .check).active 0 = true ∧ (two .check).required.getLsbD 0 = true ∧ ((two .check).axis 0).valid = false) ∧
    ∀ k, (twoValid .check).active k = true → (twoValid .check).required.getLsbD k.val = true →
      ((twoValid .check).axis k).valid = true := by decide +kernel

theorem witness_BarriersWaitForEveryWorker :
    (∀ k, (two .refresh).active k = true → ((two .refresh).axis k).wstep = .done) ∧
    (let s := (two .dispatch).modAxis 1 fun a => { a with wstep := .cmd }
     s.phase = .dispatch ∧ s.active 1 = true ∧ (s.axis 1).wstep ≠ .done) := by decide +kernel

theorem witness_ComputeLeadsToDispatch :
    (let s : State := { two .compute with mode := .imp }
     s.phase = .compute ∧ s.mode = .imp) ∧
    (let s := twoValid .compute
     s.mode = .pd ∧ s.nax = some 2 ∧ s.kp.isSome = true ∧ s.kd.isSome = true ∧ s.limit.isSome = true ∧
       (s.axis 0).valid = true ∧ (s.axis 1).valid = true) ∧
    ((two .compute).axis 0).valid = false ∧
    (let s := (two .compute).setGroup 0 (some (1, 2, 3))
     (s.axis 0).valid = true ∧ (s.axis 1).valid = false) := by decide +kernel

theorem witness_TimingAndSleep :
    (two .timing).period = some 10 ∧
    (let s : State := { two .timing with tStart := 5, now := 14 }
     s.phase = .timing ∧ s.now - s.tStart < 10) ∧
    (let s : State := { two .timing with tStart := 5, now := 15 }
     10 ≤ s.now - s.tStart) ∧
    (let s : State := { two .sleep with tStart := 5, now := 15 }
     s.phase = .sleep ∧ s.tStart + 10 ≤ s.now) ∧
    (let s : State := { two .sleep with tStart := 5, now := 14 }
     s.now < s.tStart + 10) := by decide +kernel

/-- The four ways of a read: it fails, the bytes are there, time is over, neither. `T_READ` is 2 and the call was at 3. -/
theorem witness_AgentReadsEndByDataOrTime :
    one.tRead = some 2 ∧
    ({ one with links := [{ readFails := true }] } : State).drawLink.1.readFails = true ∧
    (let s : State := { one.modAxis 0 (fun a => { a with rxq := angleReply }) with links := [{}] }
     s.drawLink.1.readFails = false ∧ 14 ≤ (s.axis 0).rxq.length) ∧
    (let s : State := { one with links := [{}], now := 5 }
     s.drawLink.1.readFails = false ∧ (s.axis 0).rxq.length < 14 ∧ 3 + 2 ≤ s.now) ∧
    (let s : State := { one with links := [{}], now := 4 }
     (s.axis 0).rxq.length < 14 ∧ s.now < 3 + 2) ∧
    (let s : State := { one.modAxis 0 (fun a => { a with wait := some 3 }) with now := 4 }
     (s.axis 0).wait = some 3 ∧ s.now ≤ 3 + 2 ∧ s.now + 1 ≤ 3 + 2 ∧ ¬s.now + 2 ≤ 3 + 2) := by decide +kernel

/-- A worker's read in progress, its failure, and its end. -/
def refreshing (w : WStep) (rx : List Byte) (t : Nat) : State :=
  { (two .refresh).modAxis 0 (fun a => { a with wstep := w, wait := some 0, rxq := rx, held := 77 }) with
    links := [{}], now := t }

theorem witness_RefreshWorkerIsAllOrNothing :
    (∃ t, workerMove (refreshing .t1 [] 1) 0 = .next t ∧ (t.axis 0).wstep = .t1) ∧
    (∃ t, workerMove (refreshing .t1 [] 2) 0 = .next t ∧ (t.axis 0).wstep = .done) ∧
    (∃ t, workerMove (refreshing .t1 angleReply 1) 0 = .next t ∧ (t.axis 0).wstep = .t2) ∧
    (∃ t, workerMove (refreshing .t2 statusReply 1) 0 = .next t ∧ (t.axis 0).group = (some 77, some 10000, some 100)) ∧
    ((refreshing .t1 [] 1).phase = .refresh ∧ (refreshing .t1 [] 1).active 0 = true ∧
      ((refreshing .t1 [] 1).axis 0).axisId = some 1 ∧ ((refreshing .t1 [] 1).axis 0).wait ≠ none ∧
      (refreshing .t1 [] 1).tRead.isSome = true) ∧
    ∃ t, step { refreshing .t1 angleReply 1 with events := [.worker 0], slack := 1 } = .next t ∧
      (t.axis 0).held ≠ ((refreshing .t1 angleReply 1).axis 0).held := by
  refine ⟨⟨_, rfl, ?_⟩, ⟨_, rfl, ?_⟩, ⟨_, rfl, ?_⟩, ⟨_, rfl, ?_⟩, ?_, ⟨_, rfl, ?_⟩⟩ <;> decide +kernel

/-- Axis 1 in the dispatch phase with its torque ready, and what the channel does next. -/
def dispatching (m : Mode) (d : LinkDraw) : State :=
  { (two .dispatch).modAxis 1 (fun a => { a with wstep := .cmd, tq := some 50 }) with mode := m, links := [d] }

theorem witness_PdDispatchSendsTheTorque :
    (let s := dispatching .pd {}
     s.phase = .dispatch ∧ s.mode = .pd ∧ s.active 1 = true ∧ (s.axis 1).wstep = .cmd ∧ (s.axis 1).tq = some 50 ∧
       (s.axis 1).wait = none ∧ (s.axis 1).axisId = some 2 ∧ s.drawLink.1.sent = none) ∧
    (dispatching .pd { sent := some 1 }).drawLink.1.sent = some 1 ∧
    (let s := (dispatching .pd {}).modAxis 1 fun a => { a with wait := some 0 }
     (s.axis 1).wait ≠ none ∧ s.tRead.isSome = true ∧ (s.axis 1).tq = some 50) := by decide +kernel

theorem witness_ImpDispatchSendsTheSetpoints :
    (let s := dispatching .imp {}
     s.phase = .dispatch ∧ s.mode = .imp ∧ s.active 1 = true ∧ (s.axis 1).wstep = .cmd ∧ s.kp = some 5 ∧
       s.kd = some 0 ∧ (s.axis 1).axisId = some 2 ∧ s.drawLink.1.sent = none) ∧
    (dispatching .imp { sent := some 1 }).drawLink.1.sent = some 1 := by decide +kernel

theorem witness_SetpointsAreSampledPerRegister :
    (let s := dispatching .imp {}
     s.active 1 = true ∧ s.phase = .dispatch ∧ s.mode = .imp ∧ (s.axis 1).wstep = .cmd ∧ (s.axis 1).smp = {}) ∧
    ¬((two .dispatch).active 0 = true ∧ (two .dispatch).phase = .dispatch ∧ (two .dispatch).mode = .imp ∧
      ((two .dispatch).axis 0).wstep = .cmd) ∧
    [Event.write (.tFf 1 7), .write (.pDes 1 5), .write (.vDes 1 6)].Perm
      [.write (.pDes 1 5), .write (.vDes 1 6), .write (.tFf 1 7)] := by decide +kernel

theorem witness_WorkersAreIsolated :
    ∃ t, workerMove (dispatching .imp {}) 1 = .next t ∧ (t.axis 1).wstep = .done := ⟨_, rfl, by decide +kernel⟩

/-- A step of a running block that writes to a channel. -/
theorem witness_EachPhaseSendsItsOwnFrames :
    let s : State := { (two .refresh).modAxis 0 (fun a => { a with wstep := .t1 }) with events := [.worker 0], slack := 1, links := [{}] }
    s.busy = true ∧ ∃ t, step s = .next t ∧ (t.axis 0).txh ≠ (s.axis 0).txh :=
  ⟨by decide, _, rfl, by decide +kernel⟩

theorem witness_StepRunsTheDecodedInstruction :
    (let s := State.reset.place (encode .cancel)
     s.port.start = true ∧ decode s.placed = .ok .cancel) ∧ State.reset.port.start = false := ⟨⟨rfl, rfl⟩, rfl⟩

theorem witness_HistoriesOnlyGrow :
    ∃ t, step { two .check with events := [.sequencer], slack := 1 } = .next t ∧ t.rlog = [.skip 0] := ⟨_, rfl, by decide +kernel⟩

/-- A running block, axis 0 inside its first read. -/
def reading : State :=
  { ((two .refresh).modAxis 0 fun a => { a with life := .running, wstep := .t1, wait := some 1 }).modAxis 1
      (fun a => { a with life := .running }) with
    ticks := 1, tStart := 1, now := 3, events := [.worker 0], slack := 1, links := [{}] }

theorem reading_inv : Inv reading where
  atomicGroup := by unfold AtomicGroup; decide +kernel
  legalConfig := by
    have h : ∀ k, (reading.axis k).axisId = none ∨ (reading.axis k).axisId = some 1 ∨ (reading.axis k).axisId = some 2 := by
      decide +kernel
    refine ⟨fun k v hv => ?_, ?_, ?_, ?_, ?_⟩
    · rcases h k with h | h | h <;> rw [h] at hv <;> cases hv <;> decide
    all_goals intro n hn; cases hn; decide +kernel
  bufferBounds := by unfold BufferBounds; decide +kernel
  configHeld := by unfold ConfigHeld; decide +kernel
  workersInPhase := by unfold WorkersInPhase; decide +kernel
  readsOwned := by
    have h : ∀ k, (reading.axis k).wait = none ∨ (reading.axis k).wait = some 1 ∧ (reading.axis k).wstep = .t1 := by
      decide +kernel
    intro k since hs
    rcases h k with h | ⟨h, hw⟩ <;> rw [h] at hs <;> cases hs
    exact ⟨by decide, .inl hw⟩
  torquesReady := by unfold TorquesReady; decide +kernel
  clockOrder := by unfold ClockOrder; decide +kernel
  tickChecked := by unfold TickChecked; decide +kernel
  axesRunning := by unfold AxesRunning; decide +kernel
  sleepEarned := by intro h; cases h
  startupPlace := by unfold StartupPlace; decide +kernel
  samplesOwned := by
    have h : ∀ k, (reading.axis k).smp = {} := by decide +kernel
    intro k hk; exact absurd (h k) hk
  readsInTime := by
    have h : ∀ k, (reading.axis k).wait = none ∨ (reading.axis k).wait = some 1 := by decide +kernel
    intro k since T hs hT
    cases hT
    rcases h k with h | h <;> rw [h] at hs <;> cases hs
    decide

/-- A state of a run that satisfies the invariants, and a step from it: the hypotheses of the two statements. -/
theorem witness_EveryStepKeepsTheInvariant : Inv reading ∧ ∃ t, step reading = .next t := ⟨reading_inv, _, rfl⟩

theorem witness_NothingStopsTheMachine : Inv reading := reading_inv

/-- Between two ticks. -/
def resting : State :=
  ((two .between).modAxis 0 fun a => { a with life := .running }).modAxis 1 fun a => { a with life := .running }

theorem resting_inv : Inv resting where
  atomicGroup := by unfold AtomicGroup; decide +kernel
  legalConfig := by
    have h : ∀ k, (resting.axis k).axisId = none ∨ (resting.axis k).axisId = some 1 ∨ (resting.axis k).axisId = some 2 := by
      decide +kernel
    refine ⟨fun k v hv => ?_, ?_, ?_, ?_, ?_⟩
    · rcases h k with h | h | h <;> rw [h] at hv <;> cases hv <;> decide
    all_goals intro n hn; cases hn; decide +kernel
  bufferBounds := by unfold BufferBounds; decide +kernel
  configHeld := by unfold ConfigHeld; decide +kernel
  workersInPhase := by unfold WorkersInPhase; decide +kernel
  readsOwned := by
    have h : ∀ k, (resting.axis k).wait = none := by decide +kernel
    intro k since hs; rw [h] at hs; cases hs
  torquesReady := by intro h; cases h
  clockOrder := by unfold ClockOrder; decide +kernel
  tickChecked := by unfold TickChecked; decide +kernel
  axesRunning := by unfold AxesRunning; decide +kernel
  sleepEarned := by intro h; cases h
  startupPlace := by intro h; cases h
  samplesOwned := by
    have h : ∀ k, (resting.axis k).smp = {} := by decide +kernel
    intro k hk; exact absurd (h k) hk
  readsInTime := by
    have h : ∀ k, (resting.axis k).wait = none := by decide +kernel
    intro k since T hs; rw [h] at hs; cases hs

/-- A state in a read, a state between two ticks, and the first with `CANCEL` set. -/
theorem witness_RunsGetOn :
    (Inv reading ∧ reading.busy = true) ∧ (Inv resting ∧ resting.phase = .between) ∧
    Inv { reading with cancel := true } ∧ ({ reading with cancel := true } : State).busy = true :=
  have h := reading_inv
  ⟨⟨h, rfl⟩, ⟨resting_inv, rfl⟩,
    ⟨h.atomicGroup, h.legalConfig, h.bufferBounds, h.configHeld, h.workersInPhase, h.readsOwned, h.torquesReady,
      h.clockOrder, h.tickChecked, h.axesRunning, h.sleepEarned, h.startupPlace, h.samplesOwned, h.readsInTime⟩, rfl⟩

/-- With no slack left the agent whose turn it is moves, whatever the list holds: the sequencer in turn 32, time in turn 33
(R347, assumption 41). -/
theorem test_turns :
    (let s : State := { two .timing with turn := 32, events := [.worker 0] }
     ∃ t, step s = .next t ∧ t.phase = .sleep ∧ t.turn = 33 ∧ t.events = [.worker 0]) ∧
    (let s : State := { two .sleep with turn := 33, now := 4 }
     ∃ t, step s = .next t ∧ t.now = 5 ∧ t.turn = 0) :=
  ⟨⟨_, rfl, by decide +kernel⟩, ⟨_, rfl, by decide +kernel⟩⟩

end Sys2Proof.Tests
end

section
/-! PROOF. The rounding functions of `00_scope.md` R15. Each is tied to the library's `⌊·⌋` on `Rat`, or to `floorQ`, once;
the bounds follow from the library's laws of the floor. -/

namespace Sys2Proof.Proofs

open Sys2Proof Sys2Proof.Machine

theorem floorQ_eq_floor (q : Rat) : floorQ q = ⌊q⌋ := q.floor_def.symm

theorem floorQ_le (q : Rat) : (floorQ q : Rat) ≤ q := by
  rw [floorQ_eq_floor]
  exact Int.floor_le q

theorem lt_floorQ_add_one (q : Rat) : q < floorQ q + 1 := by
  rw [floorQ_eq_floor]
  exact Int.lt_floor_add_one q

theorem le_floorQ_iff {q : Rat} {z : Int} : z ≤ floorQ q ↔ (z : Rat) ≤ q := by
  rw [floorQ_eq_floor]
  exact Int.le_floor

theorem truncQ_of_nonneg {q : Rat} (h : 0 ≤ q) : truncQ q = floorQ q :=
  Int.tdiv_eq_ediv_of_nonneg (Rat.num_nonneg.2 h)

theorem truncQ_neg (q : Rat) : truncQ (-q) = -truncQ q :=
  Int.neg_tdiv q.num q.den

theorem truncQ_of_nonpos {q : Rat} (h : q ≤ 0) : truncQ q = -floorQ (-q) := by
  rw [← truncQ_of_nonneg (neg_nonneg.2 h), truncQ_neg, neg_neg]

/-- `nearest_up` lies in the half-open interval about its argument: a tie is never taken downward. -/
theorem nearestUpQ_sub_bounds (q : Rat) :
    -(1 / 2) < (nearestUpQ q : Rat) - q ∧ (nearestUpQ q : Rat) - q ≤ 1 / 2 := by
  have hle : (nearestUpQ q : Rat) ≤ q + 1 / 2 := floorQ_le (q + 1 / 2)
  have hlt : q + 1 / 2 < (nearestUpQ q : Rat) + 1 := lt_floorQ_add_one (q + 1 / 2)
  constructor <;> linarith

theorem abs_nearestUpQ_sub_le (q : Rat) : |(nearestUpQ q : Rat) - q| ≤ 1 / 2 :=
  abs_le.2 ⟨(nearestUpQ_sub_bounds q).1.le, (nearestUpQ_sub_bounds q).2⟩

/-- The two outcomes of `nearest_even`: the floor or its successor, each with the distances that select it. A tie stands in
both, with the even integer chosen. -/
theorem nearestEvenQ_cases (q : Rat) :
    nearestEvenQ q = floorQ q ∧
      (q - floorQ q < 1 / 2 ∨ q - floorQ q = 1 / 2 ∧ nearestEvenQ q % 2 = 0) ∨
    nearestEvenQ q = floorQ q + 1 ∧
      (1 / 2 < q - floorQ q ∨ q - floorQ q = 1 / 2 ∧ nearestEvenQ q % 2 = 0) := by
  by_cases hbelow : q - floorQ q < 1 / 2
  · have hval : nearestEvenQ q = floorQ q := if_pos hbelow
    exact .inl ⟨hval, .inl hbelow⟩
  by_cases habove : 1 / 2 < q - floorQ q
  · have hval : nearestEvenQ q = floorQ q + 1 := (if_neg hbelow).trans (if_pos habove)
    exact .inr ⟨hval, .inl habove⟩
  have htie : q - floorQ q = 1 / 2 := le_antisymm (not_lt.1 habove) (not_lt.1 hbelow)
  by_cases heven : floorQ q % 2 = 0
  · have hval : nearestEvenQ q = floorQ q := by simp [nearestEvenQ, htie, heven]
    exact .inl ⟨hval, .inr ⟨htie, hval ▸ heven⟩⟩
  · have hval : nearestEvenQ q = floorQ q + 1 := by simp [nearestEvenQ, htie, heven]
    exact .inr ⟨hval, .inr ⟨htie, by omega⟩⟩

/-- Off a tie `nearest_even` is nearer than one half; on a tie it is even, and exactly one half away. -/
theorem abs_nearestEvenQ_sub (q : Rat) :
    |(nearestEvenQ q : Rat) - q| < 1 / 2 ∨ |(nearestEvenQ q : Rat) - q| = 1 / 2 ∧ nearestEvenQ q % 2 = 0 := by
  have hle := floorQ_le q
  have hlt := lt_floorQ_add_one q
  obtain ⟨hval, hfrac⟩ | ⟨hval, hfrac⟩ := nearestEvenQ_cases q
  · have habs : |(nearestEvenQ q : Rat) - q| = q - floorQ q := by
      rw [hval, abs_sub_comm, abs_of_nonneg (sub_nonneg.2 hle)]
    rwa [habs]
  · have habs : |(nearestEvenQ q : Rat) - q| = 1 - (q - floorQ q) := by
      rw [hval, Int.cast_add, Int.cast_one, abs_of_nonneg (by linarith)]
      ring
    rw [habs]
    obtain habove | ⟨htie, heven⟩ := hfrac
    · exact .inl (by linarith)
    · exact .inr ⟨by linarith, heven⟩

theorem abs_nearestEvenQ_sub_le (q : Rat) : |(nearestEvenQ q : Rat) - q| ≤ 1 / 2 :=
  (abs_nearestEvenQ_sub q).elim le_of_lt fun htie => htie.1.le

theorem nearestEvenQ_even_of_tie {q : Rat} (h : |(nearestEvenQ q : Rat) - q| = 1 / 2) : nearestEvenQ q % 2 = 0 :=
  (abs_nearestEvenQ_sub q).elim (fun hlt => absurd h hlt.ne) And.right

/-- Settles O12: the bounds of each rounding function above; `clamp`, `ToInt` and `QRound` by their definitions. -/
theorem roundingFunctions : Obligations.RoundingFunctions := by
  unfold Obligations.RoundingFunctions
  refine ⟨?floor, ?trunc, ?nearestUp, ?nearestEven, ?clamp, ?conversions⟩
  case floor => exact fun q => ⟨floorQ_le q, fun _ => le_floorQ_iff.2⟩
  case trunc => exact fun q => ⟨truncQ_of_nonneg, truncQ_of_nonpos⟩
  case nearestUp =>
    exact fun q => ⟨rfl, abs_nearestUpQ_sub_le q, (nearestUpQ_sub_bounds q).1.ne'⟩
  case nearestEven => exact fun q => ⟨abs_nearestEvenQ_sub_le q, nearestEvenQ_even_of_tie⟩
  case clamp => exact fun x lo hi => rfl
  case conversions => exact fun q => ⟨rfl, rfl, rfl, rfl, rfl, rfl, rfl⟩

end Sys2Proof.Proofs
end

section
/-! PROOF. What one move can do, said once for each agent, so that the statements about every step are short uses of it: the
registers behind the host port (`Inside`), one axis (`OneAxis`), one channel (`ChannelMoved`), and the ends of the moves of
a worker and of the sequencer (`WorkerEnd`, `StartupEnd`, `ShutdownEnd`). -/

namespace Sys2Proof.Machine

variable {s t u : State} {k : AxisIx}

/-! ### Registers behind the host port -/

/-- The widths of `IMPBUF` and of the host's buffers and index register (`10_state.md` R23 to R25). -/
def HostBuffers (s : State) : Prop :=
  s.impbuf.length = 8 ∧ s.host.txbuf.length ≤ 261 ∧ s.host.rxbuf.length ≤ 261 ∧ s.host.st.sidx ≤ 261

/-- `t` is `s` but for the registers behind the host port, `CANCEL`, records added to the report log, and the draws:
of these the invariants read the widths of the buffers alone. -/
structure Inside (s t : State) : Prop where
  eq : t = { s with
    acc := t.acc, host := t.host, qout := t.qout, impbuf := t.impbuf, cancel := t.cancel, rlog := t.rlog,
    port := t.port, events := t.events, turn := t.turn, slack := t.slack, links := t.links, drawn := t.drawn }
  rlog : s.rlog <+: t.rlog
  buffers : HostBuffers s → HostBuffers t

theorem Inside.axis (h : Inside s t) (j : AxisIx) : t.axis j = s.axis j :=
  State.axis_congr (congrArg State.axes h.eq :) j

theorem Inside.now (h : Inside s t) : t.now = s.now := (congrArg State.now h.eq :)

theorem Inside.busy (h : Inside s t) : t.busy = s.busy := by
  have hp : t.phase = s.phase := (congrArg State.phase h.eq :)
  simp [State.busy, hp]

theorem inside_refl (s : State) : Inside s s := ⟨rfl, List.prefix_rfl, id⟩

theorem inside_answer (s : State) (r : Result) : Inside s (s.answer r) := ⟨rfl, List.prefix_rfl, id⟩

theorem inside_report (s : State) (r : Report) : Inside s (s.report r) := ⟨rfl, List.prefix_append _ _, id⟩

theorem inside_taken (s : State) : Inside s s.taken := ⟨rfl, List.prefix_rfl, id⟩

theorem inside_place (s : State) (r : Request) : Inside s (s.place r) := ⟨rfl, List.prefix_rfl, id⟩

theorem inside_drawEvent (s : State) : Inside s s.drawEvent.2 := by
  rw [s.drawEvent_frame]
  exact ⟨rfl, List.prefix_rfl, id⟩

/-- Bytes written to the host's `RXBUF` (R24; assumption 23). -/
theorem inside_rxbuf {bytes : List Byte} (h : bytes.length ≤ 261) :
    Inside s { s with host := { s.host with rxbuf := bytes } } :=
  ⟨rfl, List.prefix_rfl, fun ⟨himp, htx, _, hidx⟩ => ⟨himp, htx, h, hidx⟩⟩

/-- BUILD writes a frame of at most 261 bytes, and the serializer's index ends at the frame's length (R93, R141). -/
theorem inside_build {c a : Byte} {p : List Byte} {cd : Codec} (h : s.host.build c a p = .ok cd) :
    Inside s { s with host := cd } := by
  obtain ⟨f, hf, rfl⟩ := Codec.build_ok h
  obtain ⟨hlen, hle⟩ := buildFrame_length hf
  have hidx : (serialize c a p).2.sidx = frameLen p.length := by simp [serialize, serRun_sidx]
  exact ⟨rfl, List.prefix_rfl, fun ⟨himp, _, hrx, _⟩ => ⟨himp, hle, hrx, by rw [hidx, ← hlen]; exact hle⟩⟩

/-- VALIDATE moves the deserializer's index no further than the bytes it is handed (R143). -/
theorem inside_validate (s : State) (n : Nat) : Inside s { s with host := (s.host.validate s.host.rxbuf n).2 } := by
  have hidx : (desRun s.host.rxbuf n).st.sidx ≤ s.host.rxbuf.length := by
    unfold desRun
    split
    · simpa using desFold_sidx n s.host.rxbuf {}
    · exact Nat.zero_le _
  exact ⟨rfl, List.prefix_rfl, fun ⟨himp, htx, hrx, _⟩ => ⟨himp, htx, hrx, hidx.trans hrx⟩⟩

theorem Inside.trans (h₁ : Inside s t) (h₂ : Inside t u) : Inside s u where
  eq := by
    conv_lhs => rw [h₂.eq]
    rw [h₁.eq]
  rlog := h₁.rlog.trans h₂.rlog
  buffers := h₂.buffers ∘ h₁.buffers

theorem inside_encodeWire (s : State) (k : AxisIx) (c : Byte) (pl : Except RefuseReason (List Byte)) :
    Inside s (encodeWire s k c pl) := by
  obtain ⟨r, h⟩ | ⟨a, p, f, -, -, hf, h⟩ := encodeWire_spec s k c pl
  · rw [h]
    exact inside_answer s _
  · rw [h]
    exact (inside_build (Codec.build_eq hf)).trans (inside_answer _ _)

/-! ### One axis -/

/-- `t` is `s` but for axis `k`, records added to the report log, and the channel draws: what a move of an agent on one
axis may touch (`20_memory.md` R67, R78). -/
structure OneAxis (k : AxisIx) (s t : State) : Prop where
  eq : t = { s with axes := t.axes, rlog := t.rlog, links := t.links, drawn := t.drawn }
  rlog : s.rlog <+: t.rlog
  other : ∀ j, j ≠ k → t.axis j = s.axis j

theorem OneAxis.trans (h₁ : OneAxis k s t) (h₂ : OneAxis k t u) : OneAxis k s u where
  eq := by
    conv_lhs => rw [h₂.eq]
    rw [h₁.eq]
  rlog := h₁.rlog.trans h₂.rlog
  other := fun j hj => (h₂.other j hj).trans (h₁.other j hj)

theorem oneAxis_modAxis (s : State) (k : AxisIx) (f : Axis → Axis) : OneAxis k s (s.modAxis k f) :=
  ⟨rfl, List.prefix_rfl, fun _ hj => s.axis_modAxis_ne f hj⟩

theorem oneAxis_report (s : State) (k : AxisIx) (r : Report) : OneAxis k s (s.report r) :=
  ⟨rfl, List.prefix_append _ _, fun _ _ => rfl⟩

/-- Moves on channel `k` at one instant: what was sent is added to the history, and the frame in `TXBUF` stays a frame. -/
structure ChannelMoved (k : AxisIx) (s t : State) : Prop where
  frame : ChannelOnly k s t
  now : t.now = s.now
  txbuf : (s.axis k).codec.txbuf.length ≤ 261 → (t.axis k).codec.txbuf.length ≤ 261
  txh : (s.axis k).txh <+: (t.axis k).txh

theorem ChannelMoved.oneAxis (h : ChannelMoved k s t) : OneAxis k s t where
  eq := by
    conv_lhs => rw [h.frame.1, h.now]
    rw [h.frame.channels.rlog]
  rlog := h.frame.channels.rlog ▸ List.prefix_rfl
  other := fun _ => h.frame.other

/-- The moves leave a read in progress, called now if none was in progress (R65, R231). -/
structure InProgress (k : AxisIx) (s t : State) : Prop extends ChannelMoved k s t where
  wait : (t.axis k).wait = some ((s.axis k).wait.getD s.now)

/-- The moves leave no read in progress. -/
structure Ended (k : AxisIx) (s t : State) : Prop extends ChannelMoved k s t where
  wait : (t.axis k).wait = none

theorem agentTransact_inProgress {c : Byte} {p : List Byte} {n : Nat} (h : agentTransact s k c p n = (none, t)) :
    InProgress k s t := by
  obtain ⟨hf, hn, -, hb, ⟨pre, hpre⟩, hw, -⟩ := agentTransact_spec s k c p n
  rw [h] at hf hn hb hpre hw
  exact ⟨⟨hf, hn, hb, hpre ▸ List.prefix_append _ _⟩, hw rfl⟩

theorem agentTransact_ended {c : Byte} {p : List Byte} {n : Nat} {r : Reply} (hr : ∀ e, r ≠ .refused e)
    (h : agentTransact s k c p n = (some r, t)) : Ended k s t := by
  obtain ⟨hf, hn, -, hb, ⟨pre, hpre⟩, -, hw⟩ := agentTransact_spec s k c p n
  rw [h] at hf hn hb hpre hw
  refine ⟨⟨hf, hn, hb, hpre ▸ List.prefix_append _ _⟩, hw ?_⟩
  cases r with
  | refused e => exact absurd rfl (hr e)
  | err e => exact .inr ⟨e, rfl⟩
  | ok q => exact .inl ⟨q, rfl⟩

/-! ### The moves of a worker -/

/-- A record may have been added. -/
def MayReport (s t : State) : Prop := t = s ∨ ∃ r, t = s.report r

/-- How a move of worker `k` can end (R35, R258, R266, R268; `46_session.md` R240). -/
inductive WorkerEnd (s : State) (k : AxisIx) : State → Prop where
  /-- the worker is not alive, or done -/
  | waits : WorkerEnd s k s
  /-- a transaction has begun or goes on -/
  | pending (u : State) (hu : InProgress k s u)
      (hown : (s.axis k).wstep = .t1 ∨ (s.axis k).wstep = .t2 ∨ ((s.axis k).wstep = .cmd ∧ s.mode = .pd)) :
    WorkerEnd s k u
  /-- the first transaction of a refresh has delivered the angle -/
  | angle (u : State) (raw : BitVec 64) (hk : s.active k = true) (hp : s.phase = .refresh) (hu : Ended k s u) :
    WorkerEnd s k (u.modAxis k fun a => { a with held := raw, wstep := .t2 })
  /-- a refresh has ended, with all three fields or with none -/
  | refreshed (u v : State) (g : Option (BitVec 64 × BitVec 16 × BitVec 16)) (hp : s.phase = .refresh)
      (hu : Ended k s u) (hv : MayReport (u.setGroup k g) v) :
    WorkerEnd s k (v.finish k)
  /-- the torque command has ended -/
  | torque (u v : State) (hp : s.phase = .dispatch) (hm : s.mode = .pd) (hu : Ended k s u) (hv : MayReport u v) :
    WorkerEnd s k (v.finish k)
  /-- the impedance command has been sent -/
  | setpoints (u v : State) (hp : s.phase = .dispatch) (hm : s.mode = .imp) (hu : ChannelMoved k s u)
      (hw : (u.axis k).wait = (s.axis k).wait) (hv : MayReport u v) :
    WorkerEnd s k ((v.clearSamples k).finish k)

theorem refreshMove_ends (hk : s.active k = true) (hp : s.phase = .refresh) (h : refreshMove s k = .next t) :
    WorkerEnd s k t := by
  unfold refreshMove at h
  split at h
  next hstep =>
    split at h
    next s1 hx =>
      cases h
      exact .pending t (agentTransact_inProgress hx) (.inl hstep)
    next => cases h
    next e s1 hx =>
      cases h
      exact .refreshed s1 _ none hp (agentTransact_ended (by simp) hx) (.inr ⟨_, rfl⟩)
    next p s1 hx =>
      split at h
      next => cases h
      next raw _ =>
        cases h
        exact .angle s1 raw hk hp (agentTransact_ended (by simp) hx)
  next hstep =>
    split at h
    next s1 hx =>
      cases h
      exact .pending t (agentTransact_inProgress hx) (.inr (.inl hstep))
    next => cases h
    next e s1 hx =>
      cases h
      exact .refreshed s1 _ none hp (agentTransact_ended (by simp) hx) (.inr ⟨_, rfl⟩)
    next p s1 hx =>
      split at h
      next => cases h
      next r _ =>
        cases h
        exact .refreshed s1 _ (some _) hp (agentTransact_ended (by simp) hx) (.inl rfl)
  all_goals
    cases h
    exact .waits

theorem dispatchPdMove_ends (hp : s.phase = .dispatch) (hm : s.mode = .pd) (hstep : (s.axis k).wstep = .cmd)
    (h : dispatchPdMove s k = .next t) : WorkerEnd s k t := by
  unfold dispatchPdMove at h
  split at h
  next => cases h
  next iq _ =>
    split at h
    next s1 hx =>
      cases h
      exact .pending t (agentTransact_inProgress hx) (.inr (.inr ⟨hstep, hm⟩))
    next => cases h
    next e s1 hx =>
      cases h
      exact .torque s1 _ hp hm (agentTransact_ended (by simp) hx) (.inr ⟨_, rfl⟩)
    next q s1 hx =>
      cases h
      exact .torque s1 _ hp hm (agentTransact_ended (by simp) hx) (.inl rfl)

theorem dispatchImpMove_ends (hp : s.phase = .dispatch) (hm : s.mode = .imp) (h : dispatchImpMove s k = .next t) :
    WorkerEnd s k t := by
  unfold dispatchImpMove at h
  split at h
  next kp kd _ _ =>
    obtain ⟨u, hf, hn, hw, hb, ⟨pre, hpre⟩, hend⟩ :=
      fireForget_spec s k 0xA8
        (impPayload (s.axis k).setpoints.1 (s.axis k).setpoints.2.1 kp kd (s.axis k).setpoints.2.2)
    dsimp only at h
    split at h
    next => cases h
    next s1 hx =>
      cases h
      rw [hx] at hend
      exact .setpoints u s1 hp hm ⟨hf, hn, hb, hpre ▸ List.prefix_append _ _⟩ hw (hend.imp id fun hr => ⟨_, hr.2⟩)
  next => cases h

theorem workerMove_ends (h : workerMove s k = .next t) : WorkerEnd s k t := by
  unfold workerMove at h
  split at h
  next hk =>
    split at h
    next hp => exact refreshMove_ends hk hp h
    next hp =>
      split at h
      next hstep =>
        split at h
        next hm => exact dispatchPdMove_ends hp hm hstep h
        next hm => exact dispatchImpMove_ends hp hm h
      next =>
        cases h
        exact .waits
    all_goals
      cases h
      exact .waits
  next =>
    cases h
    exact .waits

theorem MayReport.oneAxis (h : MayReport s t) (k : AxisIx) : OneAxis k s t := by
  obtain rfl | ⟨r, rfl⟩ := h
  · exact ⟨rfl, List.prefix_rfl, fun _ _ => rfl⟩
  · exact oneAxis_report s k r

theorem MayReport.axis (h : MayReport s t) (j : AxisIx) : t.axis j = s.axis j := by
  obtain rfl | ⟨r, rfl⟩ := h <;> rfl

/-- A move of worker `k` touches axis `k` alone. -/
theorem WorkerEnd.oneAxis (h : WorkerEnd s k t) : OneAxis k s t := by
  cases h with
  | waits => exact ⟨rfl, List.prefix_rfl, fun _ _ => rfl⟩
  | pending u hu => exact hu.oneAxis
  | angle u raw _ _ hu => exact hu.oneAxis.trans (oneAxis_modAxis _ _ _)
  | refreshed u v g _ hu hv =>
    exact ((hu.oneAxis.trans (oneAxis_modAxis _ _ _)).trans (hv.oneAxis k)).trans (oneAxis_modAxis _ _ _)
  | torque u v _ _ hu hv => exact (hu.oneAxis.trans (hv.oneAxis k)).trans (oneAxis_modAxis _ _ _)
  | setpoints u v _ _ hu _ hv =>
    exact ((hu.oneAxis.trans (hv.oneAxis k)).trans (oneAxis_modAxis _ _ _)).trans (oneAxis_modAxis _ _ _)

/-! ### The moves of the sequencer on one axis -/

/-- How a move of the sequencer in `Startup` can end (R252 to R256). -/
inductive StartupEnd (s : State) : State → Prop where
  /-- past the last axis -/
  | running (h : s.currentAxis = none) :
    StartupEnd s { s.modActive (fun a => { a with life := .running }) with phase := .between }
  /-- a transaction has begun or goes on -/
  | pending (k : AxisIx) (u : State) (h : s.currentAxis = some k) (hu : InProgress k s u) :
    StartupEnd s u
  /-- a transaction has failed -/
  | failed (k : AxisIx) (u : State) (site : Site) (e : ErrKind) (h : s.currentAxis = some k) (hu : Ended k s u) :
    StartupEnd s (startupFail u k site e)
  /-- the axis is enabled -/
  | enabled (k : AxisIx) (u : State) (h : s.currentAxis = some k) (hu : Ended k s u) :
    StartupEnd s { u.modAxis k (fun a => { a with life := .enabled }) with seqStep := .zero }
  /-- the axis is zeroed, and the next one follows -/
  | zeroed (k : AxisIx) (u : State) (h : s.currentAxis = some k) (hu : Ended k s u) :
    StartupEnd s
      { u.modAxis k (fun a => { a with life := .zeroed }) with seqStep := .enable, seqAxis := u.seqAxis + 1 }

theorem startupMove_ends (h : startupMove s = .next t) : StartupEnd s t := by
  unfold startupMove at h
  split at h
  next => cases h
  next hc =>
    cases h
    exact .running hc
  next k _ hc =>
    split at h <;> split at h
    next s1 hx =>
      cases h
      exact .pending k t hc (agentTransact_inProgress hx)
    next => cases h
    next e s1 hx =>
      cases h
      exact .failed k s1 _ e hc (agentTransact_ended (by simp) hx)
    next q s1 hx =>
      cases h
      exact .enabled k s1 hc (agentTransact_ended (by simp) hx)
    next s1 hx =>
      cases h
      exact .pending k t hc (agentTransact_inProgress hx)
    next => cases h
    next e s1 hx =>
      cases h
      exact .failed k s1 _ e hc (agentTransact_ended (by simp) hx)
    next q s1 hx =>
      cases h
      exact .zeroed k s1 hc (agentTransact_ended (by simp) hx)

/-- How a move of the sequencer in `Shutdown` can end (R278). -/
inductive ShutdownEnd (s : State) : State → Prop where
  /-- past the last axis -/
  | halted (h : s.currentAxis = none) : ShutdownEnd s { s with phase := .halted }
  /-- a transaction has begun or goes on -/
  | pending (k : AxisIx) (u : State) (h : s.currentAxis = some k) (hu : InProgress k s u) :
    ShutdownEnd s u
  /-- the transaction has failed, and the next axis follows -/
  | failed (k : AxisIx) (u : State) (e : ErrKind) (h : s.currentAxis = some k) (hu : Ended k s u) :
    ShutdownEnd s { u.report (.err u.ticks k .shutdownDisable e) with seqAxis := u.seqAxis + 1 }
  /-- the axis is disabled, and the next one follows -/
  | disabled (k : AxisIx) (u : State) (h : s.currentAxis = some k) (hu : Ended k s u) :
    ShutdownEnd s { u.modAxis k (fun a => { a with life := .disabled }) with seqAxis := u.seqAxis + 1 }

theorem shutdownMove_ends (h : shutdownMove s = .next t) : ShutdownEnd s t := by
  unfold shutdownMove at h
  split at h
  next => cases h
  next hc =>
    cases h
    exact .halted hc
  next k _ hc =>
    split at h
    next s1 hx =>
      cases h
      exact .pending k t hc (agentTransact_inProgress hx)
    next => cases h
    next e s1 hx =>
      cases h
      exact .failed k s1 e hc (agentTransact_ended (by simp) hx)
    next q s1 hx =>
      cases h
      exact .disabled k s1 hc (agentTransact_ended (by simp) hx)

end Sys2Proof.Machine
end

section
/-! PROOF. Every instruction is a chain of a few kinds of update (`HostUpdate`), and a step is an instruction or the move of
an agent (`step_cases`). -/

namespace Sys2Proof.Machine

variable {s t u : State} {k : AxisIx}

/-- An operation of the host on channel `k`, during which bytes may arrive everywhere and time may pass (R66, R313). -/
structure HostMoved (k : AxisIx) (s t : State) : Prop where
  frame : HostOnly k s t
  now : s.now ≤ t.now
  wait : (t.axis k).wait = (s.axis k).wait
  txbuf : (s.axis k).codec.txbuf.length ≤ 261 → (t.axis k).codec.txbuf.length ≤ 261
  txh : (s.axis k).txh <+: (t.axis k).txh

/-- What one instruction is made of: an update inside, or, outside a run, an operation on a channel, a group update, the
torques, or the start of a run. -/
inductive HostUpdate (s : State) : State → Prop where
  | inside {t : State} (h : Inside s t) : HostUpdate s t
  | channel {t : State} (k : AxisIx) (hb : s.busy = false) (h : HostMoved k s t) : HostUpdate s t
  | group (k : AxisIx) (g : Option (BitVec 64 × BitVec 16 × BitVec 16)) (hb : s.busy = false) :
    HostUpdate s (s.setGroup k g)
  | torques (t0 t1 : Rat) (hb : s.busy = false) : HostUpdate s (s.setTorques t0 t1)
  | run (hb : s.busy = false) (hc : s.configured = true) :
    HostUpdate s { s with cancel := false, ticks := 0, phase := .startup, seqAxis := 0, seqStep := .enable }

/-- Updates one after another: what an instruction does. -/
abbrev HostUpdates : State → State → Prop := Relation.ReflTransGen HostUpdate

theorem HostUpdates.then_update (h : HostUpdates s t) (hu : HostUpdate t u) : HostUpdates s u := h.tail hu

theorem HostUpdates.then_inside (h : HostUpdates s t) (hi : Inside t u) : HostUpdates s u := h.tail (.inside hi)

theorem HostUpdates.then_answer (h : HostUpdates s t) (r : Result) : HostUpdates s (t.answer r) :=
  h.then_inside (inside_answer t r)

theorem HostUpdate.then_answer (h : HostUpdate s t) (r : Result) : HostUpdates s (t.answer r) :=
  (Relation.ReflTransGen.single h).tail (.inside (inside_answer t r))

theorem hostUpdates_answer (s : State) (r : Result) : HostUpdates s (s.answer r) := .single (.inside (inside_answer s r))

theorem channelRefusal_not_busy {n : Nat} (h : s.channelRefusal k n = none) : s.busy = false :=
  (State.channelRefusal_eq_none.1 h).1

theorem hostTransact_moved (s : State) (k : AxisIx) (c : Byte) (p : List Byte) (n : Nat) :
    HostMoved k s (hostTransact s k c p n).2 := by
  obtain ⟨hf, hn, -, hw, hb, pre, hpre⟩ := hostTransact_spec s k c p n
  exact ⟨hf, hn, hw, hb, hpre ▸ List.prefix_append _ _⟩

theorem hostTransact_busy (s : State) (k : AxisIx) (c : Byte) (p : List Byte) (n : Nat) :
    (hostTransact s k c p n).2.busy = s.busy :=
  (hostTransact_moved s k c p n).frame.channels.busy

theorem hostFireForget_updates (hb : s.busy = false) (k : AxisIx) (c : Byte) (p : List Byte) (site : Site) :
    HostUpdates s (hostFireForget s k c p site).2 := by
  obtain ⟨t, hf, hn, hw, htx, ⟨pre, hpre⟩, hend⟩ := hostFireForget_spec s k c p site
  have ht : HostUpdates s t := .single (.channel k hb ⟨hf, hn, hw, htx, hpre ▸ List.prefix_append _ _⟩)
  obtain h | ⟨e, -, h⟩ := hend
  · rw [h]
    exact ht
  · rw [h]
    exact ht.then_inside (inside_report t _)

/-- REFRESH of the host: two operations on the channel and one group update, fewer when the first operation fails (R240). -/
theorem hostRefresh_updates (hb : s.busy = false) (k : AxisIx) : HostUpdates s (hostRefresh s k).2 := by
  have h1 : HostUpdates s (hostTransact s k 0x92 [] 14).2 := .single (.channel k hb (hostTransact_moved ..))
  have hb1 := (hostTransact_busy s k 0x92 [] 14).trans hb
  unfold hostRefresh
  split
  next hx =>
    rw [hx] at h1
    exact h1
  next hx =>
    rw [hx] at h1 hb1
    exact (h1.then_update (.group k none hb1)).then_inside (inside_report _ _)
  next p1 s1 hx =>
    rw [hx] at h1 hb1
    split
    next => exact h1
    next raw _ =>
      have h2 : HostUpdates s (hostTransact s1 k 0x9C [] 13).2 := h1.then_update (.channel k hb1 (hostTransact_moved ..))
      have hb2 := (hostTransact_busy s1 k 0x9C [] 13).trans hb1
      split
      next hy =>
        rw [hy] at h2
        exact h2
      next hy =>
        rw [hy] at h2 hb2
        exact (h2.then_update (.group k none hb2)).then_inside (inside_report _ _)
      next p2 s2 hy =>
        rw [hy] at h2 hb2
        split
        next => exact h2
        next r _ => exact h2.then_update (.group k (some _) hb2)

theorem execTransact_updates {c : Byte} {p : List Byte} {n : Nat} (h : execTransact k c p n s = .next t) :
    HostUpdates s t := by
  unfold execTransact at h
  split at h
  next =>
    cases h
    exact hostUpdates_answer s _
  next hr =>
    cases h
    exact (HostUpdate.channel k (channelRefusal_not_busy hr) (hostTransact_moved s k c p n)).then_answer _

theorem execFireforget_updates {c : Byte} {p : List Byte} (h : execFireforget k c p s = .next t) :
    HostUpdates s t := by
  unfold execFireforget at h
  split at h
  next =>
    cases h
    exact hostUpdates_answer s _
  next hr =>
    have hf := hostFireForget_updates (channelRefusal_not_busy hr) k c p (Config.hostSite s.rlog.length)
    split at h
    all_goals
      next hx =>
        cases h
        rw [hx] at hf
        exact hf.then_answer _

theorem execImpedance_updates {p v kp kd tq : Rat} (h : execImpedance k p v kp kd tq s = .next t) :
    HostUpdates s t := by
  unfold execImpedance at h
  split at h
  next =>
    cases h
    exact hostUpdates_answer s _
  next hr =>
    have hf := hostFireForget_updates (channelRefusal_not_busy hr) k 0xA8 (impPayload p v kp kd tq)
      (Config.hostSite s.rlog.length)
    dsimp only at h
    split at h
    next hx =>
      cases h
      rw [hx] at hf
      exact hf.then_answer _
    next s1 hx =>
      cases h
      rw [hx] at hf
      have himp : Inside s1 { s1 with impbuf := impPayload p v kp kd tq } :=
        ⟨rfl, List.prefix_rfl, fun ⟨_, hhost⟩ => ⟨impPayload_length .., hhost⟩⟩
      exact hf.then_inside (himp.trans (inside_encodeWire _ k _ _))

theorem execRefresh_updates (h : execRefresh k s = .next t) : HostUpdates s t := by
  unfold execRefresh at h
  split at h
  next =>
    cases h
    exact hostUpdates_answer s _
  next hr =>
    have hf := hostRefresh_updates (channelRefusal_not_busy hr) k
    split at h
    all_goals
      next hx =>
        cases h
        rw [hx] at hf
        exact hf.then_answer _

theorem execComputePd_updates (h : execComputePd s = .next t) : HostUpdates s t := by
  unfold execComputePd at h
  split at h
  next =>
    cases h
    exact hostUpdates_answer s _
  next hb =>
    split at h
    next =>
      cases h
      exact hostUpdates_answer s _
    next =>
      cases h
      exact hostUpdates_answer s _
    next t0 t1 _ =>
      cases h
      exact (HostUpdate.torques t0 t1 (by simpa using hb)).then_answer _

theorem execRun_updates (h : execRun s = .next t) : HostUpdates s t := by
  unfold execRun at h
  split at h
  next =>
    cases h
    exact hostUpdates_answer s _
  next hb =>
    split at h
    next =>
      cases h
      exact hostUpdates_answer s _
    next hc =>
      cases h
      exact (HostUpdate.run (by simpa using hb) (by simpa using hc)).then_answer _

theorem execBuild_inside {c a : Byte} {p : List Byte} (h : execBuild c a p s = .next t) : Inside s t := by
  unfold execBuild at h
  split at h
  next =>
    cases h
    exact inside_answer s _
  next hb =>
    cases h
    exact (inside_build hb).trans (inside_answer _ _)

theorem execValidate_inside {n : Nat} (h : execValidate n s = .next t) : Inside s t := by
  unfold execValidate at h
  split at h
  next =>
    cases h
    exact inside_answer s _
  next =>
    dsimp only at h
    split at h
    all_goals
      cases h
      exact (inside_validate s n).trans (inside_answer _ _)

theorem execQuant_inside {x mn mx : Rat} {bits : Nat} (h : execQuant x mn mx bits s = .next t) : Inside s t := by
  unfold execQuant at h
  split at h
  all_goals
    cases h
    exact ⟨rfl, List.prefix_rfl, id⟩

/-- Every instruction is a chain of updates of the host. -/
theorem exec_updates {i : Instr} (h : exec i s = .next t) : HostUpdates s t := by
  cases i
  case impedance => exact execImpedance_updates h
  case transact => exact execTransact_updates h
  case fireforget => exact execFireforget_updates h
  case refresh => exact execRefresh_updates h
  case computePd => exact execComputePd_updates h
  case run => exact execRun_updates h
  case build => exact .single (.inside (execBuild_inside h))
  case validate => exact .single (.inside (execValidate_inside h))
  case quant => exact .single (.inside (execQuant_inside h))
  case decMtang | decStat2 | decStang =>
    simp only [exec, execDecMtang, execDecStat2, execDecStang] at h
    split at h
    all_goals
      cases h
      exact hostUpdates_answer s _
  case imppack =>
    cases h
    exact .single (.inside ⟨rfl, List.prefix_rfl, fun ⟨_, hhost⟩ => ⟨impPayload_length .., hhost⟩⟩)
  case csumClr | csumAdd | csumRd | csum8 | isvalid | cancel =>
    cases h
    exact .single (.inside ⟨rfl, List.prefix_rfl, id⟩)
  case enable | disable | stop | clrerr | zero | zero95 | clrturn | rdstat1 | rdstat2 | rdenc | rdmtang | rdstang
      | openloop | torque | speed | pos | posspd | scpos | scposspd | incpos | incposspd | paramrd | paramwrRam
      | paramwrRom =>
    cases h
    exact .single (.inside (inside_encodeWire ..))

/-- A configuration write is refused with nothing but an answer, or it writes outside a run what is legal (R309). -/
theorem configWrite_cases (s : State) (legal : Bool) (w : State) :
    (∃ r, configWrite s legal w = s.answer r) ∨
      (s.busy = false ∧ legal = true ∧ configWrite s legal w = w.answer (.ok .unit)) := by
  unfold configWrite
  split
  next => exact .inl ⟨_, rfl⟩
  next hb =>
    split
    next => exact .inl ⟨_, rfl⟩
    next hl => exact .inr ⟨by simpa using hb, by simpa using hl, rfl⟩

theorem hostWrite_rxbuf_inside (bytes : List Byte) (s : State) : Inside s (hostWrite (.rxbuf bytes) s) := by
  simp only [hostWrite]
  split
  next => exact inside_answer s _
  next hlen => exact (inside_rxbuf (by omega)).trans (inside_answer _ _)

/-- A step runs an instruction with the request taken, or refuses an unassigned select, or is the move of an agent. -/
theorem step_cases (h : step s = .next t) :
    (∃ i, exec i s.taken = .next t) ∨ t = badOpsel s.taken ∨ agentMove s.drawEvent.1 s.drawEvent.2 = .next t := by
  unfold step at h
  split at h
  next =>
    split at h
    next i s1 hf =>
      obtain rfl : s.taken = s1 := (Prod.mk.inj hf).2
      exact .inl ⟨i, h⟩
    next s1 hf =>
      obtain rfl : s.taken = s1 := (Prod.mk.inj hf).2
      cases h
      exact .inr (.inl rfl)
  next => exact .inr (.inr h)

end Sys2Proof.Machine
end

section
/-! PROOF. Report log and channel histories only grow, and time does not go back (`10_state.md` R32, R45;
`60_exceptions.md` R313). -/

namespace Sys2Proof.Machine

variable {s t u : State} {k : AxisIx}

/-- Nothing is taken back between `s` and `t`. -/
structure Grows (s t : State) : Prop where
  rlog : s.rlog <+: t.rlog
  txh : ∀ k, (s.axis k).txh <+: (t.axis k).txh
  now : s.now ≤ t.now

theorem Grows.trans (h₁ : Grows s t) (h₂ : Grows t u) : Grows s u :=
  ⟨h₁.rlog.trans h₂.rlog, fun k => (h₁.txh k).trans (h₂.txh k), h₁.now.trans h₂.now⟩

/-- Registers are written, but neither the report log, nor a history, nor the time. -/
theorem grows_of_eq (hr : t.rlog = s.rlog) (hx : ∀ k, (t.axis k).txh = (s.axis k).txh) (hn : t.now = s.now) :
    Grows s t :=
  ⟨hr ▸ List.prefix_rfl, fun k => hx k ▸ List.prefix_rfl, hn.ge⟩

theorem grows_refl (s : State) : Grows s s := grows_of_eq rfl (fun _ => rfl) rfl

theorem Grows.modAxis (h : Grows s u) (k : AxisIx) {f : Axis → Axis} (hf : ∀ a, (f a).txh = a.txh) :
    Grows s (u.modAxis k f) :=
  h.trans (grows_of_eq rfl (fun j => by rw [State.axis_modAxis]; split <;> simp_all) rfl)

theorem Grows.modActive (h : Grows s u) {f : Axis → Axis} (hf : ∀ a, (f a).txh = a.txh) : Grows s (u.modActive f) :=
  h.trans (grows_of_eq rfl (fun j => by rw [State.axis_modActive]; split <;> simp [hf]) rfl)

/-- Other registers are written beside. -/
theorem Grows.beside (h : Grows s u) (ha : t.axes = u.axes) (hr : t.rlog = u.rlog) (hn : t.now = u.now) : Grows s t :=
  h.trans (grows_of_eq hr (fun k => by rw [State.axis_congr ha]) hn)

theorem Inside.grows (h : Inside s t) : Grows s t :=
  ⟨h.rlog, fun k => by rw [h.axis k], h.now.ge⟩

theorem Grows.report (h : Grows s u) (r : Report) : Grows s (u.report r) := h.trans (inside_report u r).grows

theorem OneAxis.grows (h : OneAxis k s t) (hx : (s.axis k).txh <+: (t.axis k).txh) : Grows s t where
  rlog := h.rlog
  txh := fun j => by
    by_cases hj : j = k
    · exact hj ▸ hx
    · rw [h.other j hj]
  now := (congrArg State.now h.eq :).ge

theorem ChannelMoved.grows (h : ChannelMoved k s t) : Grows s t := h.oneAxis.grows h.txh

theorem MayReport.grows (h : MayReport s t) : Grows s t := by
  obtain rfl | ⟨r, rfl⟩ := h
  · exact grows_refl t
  · exact (inside_report s r).grows

theorem HostMoved.grows (h : HostMoved k s t) : Grows s t where
  rlog := h.frame.channels.rlog ▸ List.prefix_rfl
  txh := fun j => by
    by_cases hj : j = k
    · exact hj ▸ h.txh
    · obtain ⟨bytes, hbytes⟩ := h.frame.other hj
      rw [hbytes]
  now := h.now

theorem setTorques_grows (s : State) (t0 t1 : Rat) : Grows s (s.setTorques t0 t1) :=
  Grows.modAxis ((grows_refl s).modAxis 0 (f := fun a => { a with tq := some t0 }) fun _ => rfl) 1 fun _ => rfl

theorem HostUpdate.grows (h : HostUpdate s t) : Grows s t := by
  cases h with
  | inside h => exact h.grows
  | channel k _ h => exact h.grows
  | group k g => exact (grows_refl s).modAxis k fun _ => rfl
  | torques t0 t1 => exact setTorques_grows s t0 t1
  | run => exact grows_of_eq rfl (fun _ => rfl) rfl

theorem HostUpdates.grows (h : HostUpdates s t) : Grows s t := by
  induction h with
  | refl => exact grows_refl s
  | tail _ hu ih => exact ih.trans hu.grows

theorem WorkerEnd.grows (h : WorkerEnd s k t) : Grows s t := by
  cases h with
  | waits => exact grows_refl s
  | pending u hu => exact hu.grows
  | angle u raw _ _ hu => exact hu.grows.modAxis k fun _ => rfl
  | refreshed u v g _ hu hv =>
    have hgroup : Grows s (u.setGroup k g) := hu.grows.modAxis k fun _ => rfl
    exact (hgroup.trans hv.grows).modAxis k fun _ => rfl
  | torque u v _ _ hu hv => exact (hu.grows.trans hv.grows).modAxis k fun _ => rfl
  | setpoints u v _ _ hu _ hv =>
    have hcleared : Grows s (v.clearSamples k) := (hu.grows.trans hv.grows).modAxis k fun _ => rfl
    exact hcleared.modAxis k fun _ => rfl

theorem StartupEnd.grows (h : StartupEnd s t) : Grows s t := by
  cases h with
  | running =>
    exact ((grows_refl s).modActive (f := fun a => { a with life := .running }) fun _ => rfl).beside rfl rfl rfl
  | pending k u _ hu => exact hu.grows
  | failed k u site e _ hu => exact (hu.grows.report (.err 0 k site e)).beside rfl rfl rfl
  | enabled k u _ hu =>
    exact (hu.grows.modAxis k (f := fun a => { a with life := .enabled }) fun _ => rfl).beside rfl rfl rfl
  | zeroed k u _ hu =>
    exact (hu.grows.modAxis k (f := fun a => { a with life := .zeroed }) fun _ => rfl).beside rfl rfl rfl

theorem ShutdownEnd.grows (h : ShutdownEnd s t) : Grows s t := by
  cases h with
  | halted => exact grows_of_eq rfl (fun _ => rfl) rfl
  | pending k u _ hu => exact hu.grows
  | failed k u e _ hu => exact (hu.grows.report (.err u.ticks k .shutdownDisable e)).beside rfl rfl rfl
  | disabled k u _ hu =>
    exact (hu.grows.modAxis k (f := fun a => { a with life := .disabled }) fun _ => rfl).beside rfl rfl rfl

theorem Grows.enterDispatch (h : Grows s u) : Grows s u.enterDispatch :=
  (h.modActive (f := fun a => { a with wstep := .cmd }) fun _ => rfl).beside rfl rfl rfl

theorem tickStartMove_grows (s : State) : Grows s (tickStartMove s) :=
  ((grows_refl s).modActive (f := fun a => { a with tq := none, wstep := .t1 }) fun _ => rfl).beside rfl rfl rfl

theorem computeMove_grows (h : computeMove s = .next t) : Grows s t := by
  unfold computeMove at h
  split at h
  next =>
    cases h
    exact (grows_refl s).enterDispatch
  next =>
    split at h
    next => cases h
    next k _ =>
      cases h
      exact ((grows_refl s).report (.err s.ticks k .compute .controlPrecondition)).beside rfl rfl rfl
    next t0 t1 _ =>
      cases h
      exact (setTorques_grows s t0 t1).enterDispatch

theorem timingMove_grows (h : timingMove s = .next t) : Grows s t := by
  unfold timingMove at h
  split at h
  next => cases h
  next =>
    dsimp only at h
    split at h
    all_goals
      cases h
      exact ⟨by simp, fun _ => List.prefix_rfl, le_rfl⟩

theorem sleepMove_grows (h : sleepMove s = .next t) : Grows s t := by
  unfold sleepMove at h
  split at h
  next => cases h
  next =>
    split at h
    all_goals
      cases h
      exact grows_of_eq rfl (fun _ => rfl) rfl

theorem checkMove_grows (s : State) : Grows s (checkMove s) := by
  unfold checkMove
  split
  next => exact ((grows_refl s).report (.skip s.ticks)).beside rfl rfl rfl
  next => exact grows_of_eq rfl (fun _ => rfl) rfl

theorem betweenMove_grows (s : State) : Grows s (betweenMove s) := by
  unfold betweenMove
  split
  all_goals exact grows_of_eq rfl (fun _ => rfl) rfl

theorem sequencerMove_grows (h : sequencerMove s = .next t) : Grows s t := by
  unfold sequencerMove at h
  cases hp : s.phase <;> simp only [hp] at h
  case startup => exact (startupMove_ends h).grows
  case shutdown => exact (shutdownMove_ends h).grows
  case compute => exact computeMove_grows h
  case timing => exact timingMove_grows h
  case sleep => exact sleepMove_grows h
  case tickStart =>
    cases h
    exact tickStartMove_grows s
  case check =>
    cases h
    exact checkMove_grows s
  case between =>
    cases h
    exact betweenMove_grows s
  case refresh | dispatch =>
    split at h
    all_goals
      cases h
      exact grows_of_eq rfl (fun _ => rfl) rfl
  case idle | halted =>
    cases h
    exact grows_refl s

theorem configWrite_grows (legal : Bool) {w : State} (hw : Grows s w) : Grows s (configWrite s legal w) := by
  obtain ⟨r, h⟩ | ⟨-, -, h⟩ := configWrite_cases s legal w
  · rw [h]
    exact (inside_answer s r).grows
  · rw [h]
    exact hw.trans (inside_answer w _).grows

theorem hostWrite_grows (w : RegWrite) (s : State) : Grows s (hostWrite w s) := by
  cases w with
  | nax | kp | kd | limit | period | tRead | mode | required =>
    exact configWrite_grows _ (grows_of_eq rfl (fun _ => rfl) rfl)
  | axisId k | chAddr k | baud k => exact configWrite_grows _ ((grows_refl s).modAxis k fun _ => rfl)
  | pDes k v =>
    exact ((grows_refl s).modAxis k (f := fun a => { a with pDes := v }) fun _ => rfl).beside rfl rfl rfl
  | vDes k v =>
    exact ((grows_refl s).modAxis k (f := fun a => { a with vDes := v }) fun _ => rfl).beside rfl rfl rfl
  | tFf k v =>
    exact ((grows_refl s).modAxis k (f := fun a => { a with tFf := v }) fun _ => rfl).beside rfl rfl rfl
  | rxbuf bytes => exact (hostWrite_rxbuf_inside bytes s).grows

theorem sampleMove_grows (s : State) (k : AxisIx) (r : Setpoint) : Grows s (sampleMove s k r) := by
  unfold sampleMove
  split
  next => exact (grows_refl s).modAxis k fun a => by rw [a.sample_frame r]
  next => exact grows_refl s

theorem agentMove_grows {e : Event} (h : agentMove e s = .next t) : Grows s t := by
  cases e with
  | worker k => exact (workerMove_ends h).grows
  | sequencer => exact sequencerMove_grows h
  | request r =>
    cases h
    exact (inside_place s r).grows
  | write w =>
    cases h
    exact hostWrite_grows w s
  | read r =>
    cases h
    exact (inside_answer s _).grows
  | device k bytes =>
    cases h
    exact (grows_refl s).modAxis k fun _ => rfl
  | time dt =>
    cases h
    obtain ⟨hframe, hnow, -⟩ := s.passTime_spec dt
    rw [hframe]
    exact ⟨List.prefix_rfl, fun _ => List.prefix_rfl, hnow⟩
  | sample k r =>
    cases h
    exact sampleMove_grows s k r

end Sys2Proof.Machine

namespace Sys2Proof.Proofs

open Sys2Proof.Machine

/-- Settles O55: the histories grow with every update of the host and with every move of an agent. -/
theorem historiesOnlyGrow : Obligations.HistoriesOnlyGrow := by
  unfold Obligations.HistoriesOnlyGrow
  intro s t h
  have hgrows : Grows s t := by
    obtain ⟨i, hi⟩ | rfl | hm := step_cases h
    · exact (inside_taken s).grows.trans (exec_updates hi).grows
    · exact ((inside_taken s).trans (inside_answer _ _)).grows
    · exact (inside_drawEvent s).grows.trans (agentMove_grows hm)
  exact ⟨hgrows.rlog, hgrows.txh, hgrows.now⟩

end Sys2Proof.Proofs
end

section
/-! PROOF. The invariants, taken apart into those of the block's own registers (`ControlInv`) and those of each axis
(`AxisInv`), so that a move on one axis has only that axis to answer for; and how each kind of update keeps them. -/

namespace Sys2Proof.Machine

variable {s t u : State} {k : AxisIx} {a b : Axis}

/-! ### The parts of the invariant -/

/-- What RUN has checked, but for the axis ids (`47_sequencer.md` R251). -/
def RegsSet (s : State) : Prop :=
  s.nax.isSome = true ∧ s.kp.isSome = true ∧ s.kd.isSome = true ∧ s.limit.isSome = true ∧ s.period.isSome = true ∧
    s.tRead.isSome = true ∧ (s.mode = .pd → s.nax = some 2)

/-- The bounds of the configuration registers that belong to no axis (`10_state.md` R42 to R44). -/
def LegalRegs (s : State) : Prop :=
  (∀ n, s.nax = some n → 1 ≤ n ∧ n ≤ 32) ∧ (∀ q, s.limit = some q → 0 ≤ q) ∧ (∀ n, s.period = some n → 1 ≤ n) ∧
    (∀ n, s.tRead = some n → 1 ≤ n)

/-- The invariants of the registers that belong to no axis. -/
structure ControlInv (s : State) : Prop where
  legal : LegalRegs s
  buffers : HostBuffers s
  regsSet : s.busy = true → RegsSet s
  clock : ClockOrder s
  skip : s.phase = .compute ∨ s.phase = .dispatch → s.skip = false
  sleep : SleepEarned s

/-- The invariants of an axis that hold in every phase (`10_state.md` R24, R26, R31). -/
structure AxisRegs (a : Axis) : Prop where
  group : a.vel.isSome = a.pos.isSome ∧ a.trq.isSome = a.pos.isSome
  axisId : ∀ v, a.axisId = some v → 1 ≤ v.toNat ∧ v.toNat ≤ 32
  txbuf : a.codec.txbuf.length ≤ 261

/-- An agent owns channel `k` in a transaction (`20_memory.md` R67). -/
def Owned (s : State) (k : AxisIx) (a : Axis) : Prop :=
  a.wstep = .t1 ∨ a.wstep = .t2 ∨ (a.wstep = .cmd ∧ s.mode = .pd) ∨
    ((s.phase = .startup ∨ s.phase = .shutdown) ∧ s.currentAxis = some k)

/-- A read called at `since` is no longer than `T_READ` in progress (`46_session.md` R233). -/
def InTime (s : State) (since : Nat) : Prop := since ≤ s.now ∧ ∀ T, s.tRead = some T → s.now ≤ since + T

/-- The phases between `Startup` and `Shutdown`. -/
def RunPhase (p : Phase) : Prop := p ≠ .idle ∧ p ≠ .halted ∧ p ≠ .startup ∧ p ≠ .shutdown

/-- The invariants of axis `k` with registers `a`, in the block's state `s`. -/
structure AxisInv (s : State) (k : AxisIx) (a : Axis) : Prop extends AxisRegs a where
  idSet : s.busy = true → s.active k = true → a.axisId.isSome = true
  wstep : a.wstep = .done ∨ (s.active k = true ∧ s.phase = .refresh ∧ (a.wstep = .t1 ∨ a.wstep = .t2)) ∨
    (s.active k = true ∧ s.phase = .dispatch ∧ a.wstep = .cmd)
  wait : ∀ since, a.wait = some since → Owned s k a ∧ InTime s since
  torque : s.phase = .dispatch → s.mode = .pd → a.wstep = .cmd → a.tq.isSome = true
  valid : s.phase = .compute ∨ s.phase = .dispatch → s.active k = true → s.required.getLsbD k.val = true →
    a.valid = true
  running : RunPhase s.phase → s.active k = true → a.life = .running
  zeroed : s.phase = .startup → s.active k = true → k.val < s.seqAxis → a.life = .zeroed
  enabled : s.phase = .startup → s.seqStep = .zero → s.currentAxis = some k → a.life = .enabled
  samples : a.smp ≠ {} → s.phase = .dispatch ∧ s.mode = .imp ∧ a.wstep = .cmd

theorem configured_iff (s : State) :
    s.configured = true ↔ RegsSet s ∧ ∀ k, s.active k = true → (s.axis k).axisId.isSome = true := by
  simp only [State.configured, RegsSet, Bool.and_eq_true, Bool.or_eq_true, State.allActive_iff, bne_iff_ne,
    beq_iff_eq, imp_iff_not_or]
  tauto

theorem skipNeeded_eq_false_iff (s : State) :
    s.skipNeeded = false ↔
      ∀ k, s.active k = true → s.required.getLsbD k.val = true → (s.axis k).valid = true := by
  rw [← Bool.not_eq_true, State.skipNeeded_iff]
  simp

/-- The invariants are those of the block's own registers and those of each axis. -/
theorem inv_iff (s : State) : Inv s ↔ ControlInv s ∧ ∀ k, AxisInv s k (s.axis k) := by
  constructor
  · intro h
    obtain ⟨hids, hlegal⟩ := h.legalConfig
    obtain ⟨himp, htx, hrx, hidx, haxtx⟩ := h.bufferBounds
    have hset := fun hb => (configured_iff s).1 (h.configHeld hb)
    refine ⟨⟨hlegal, ⟨himp, htx, hrx, hidx⟩, fun hb => (hset hb).1, h.clockOrder, fun hp => (h.tickChecked hp).1,
      h.sleepEarned⟩, fun k => ?_⟩
    · exact
        { group := h.atomicGroup k
          axisId := hids k
          txbuf := haxtx k
          idSet := fun hb => (hset hb).2 k
          wstep := h.workersInPhase k
          wait := fun since hw =>
            have ⟨hsince, hown⟩ := h.readsOwned k since hw
            ⟨hown, hsince, fun T => h.readsInTime k since T hw⟩
          torque := fun hp hm => h.torquesReady hp hm k
          valid := fun hp => (skipNeeded_eq_false_iff s).1 (h.tickChecked hp).2 k
          running := fun ⟨h1, h2, h3, h4⟩ => h.axesRunning h1 h2 h3 h4 k
          zeroed := fun hp => (h.startupPlace hp).1 k
          enabled := fun hp hz => (h.startupPlace hp).2 hz k
          samples := h.samplesOwned k }
  · rintro ⟨hc, ha⟩
    obtain ⟨himp, htx, hrx, hidx⟩ := hc.buffers
    exact
      { atomicGroup := fun k => (ha k).group
        legalConfig := ⟨fun k => (ha k).axisId, hc.legal⟩
        bufferBounds := ⟨himp, htx, hrx, hidx, fun k => (ha k).txbuf⟩
        configHeld := fun hb => (configured_iff s).2 ⟨hc.regsSet hb, fun k => (ha k).idSet hb⟩
        workersInPhase := fun k => (ha k).wstep
        readsOwned := fun k since hw =>
          have ⟨hown, hsince, _⟩ := (ha k).wait since hw
          ⟨hsince, hown⟩
        torquesReady := fun hp hm k => (ha k).torque hp hm
        clockOrder := hc.clock
        tickChecked := fun hp => ⟨hc.skip hp, (skipNeeded_eq_false_iff s).2 fun k => (ha k).valid hp⟩
        axesRunning := fun h1 h2 h3 h4 k => (ha k).running ⟨h1, h2, h3, h4⟩
        sleepEarned := hc.sleep
        startupPlace := fun hp => ⟨fun k => (ha k).zeroed hp, fun hz k => (ha k).enabled hp hz⟩
        samplesOwned := fun k => (ha k).samples
        readsInTime := fun k since T hw =>
          have ⟨_, _, hT⟩ := (ha k).wait since hw
          hT T }

theorem Inv.control (h : Inv s) : ControlInv s := ((inv_iff s).1 h).1

theorem Inv.tStart_le (h : Inv s) : s.tStart ≤ s.now := h.clockOrder.1

theorem Inv.tEnd_le (h : Inv s) : s.tEnd ≤ s.now :=
  have ⟨_, hend, _⟩ := h.clockOrder
  hend

theorem Inv.axis (h : Inv s) (k : AxisIx) : AxisInv s k (s.axis k) := ((inv_iff s).1 h).2 k

/-! ### Updates the invariants do not see -/

/-- `t` has the time, the configuration and the sequencer's registers of `s`. -/
def SameControl (s t : State) : Prop :=
  t = { s with
    acc := t.acc, host := t.host, qout := t.qout, impbuf := t.impbuf, axes := t.axes, cancel := t.cancel,
    rlog := t.rlog, port := t.port, events := t.events, turn := t.turn, slack := t.slack, links := t.links,
    drawn := t.drawn }

theorem ControlInv.congr (hc : ControlInv s) (h : SameControl s t) (hb : HostBuffers t) : ControlInv t := by
  rw [h] at hb ⊢
  exact { hc with buffers := hb }

theorem AxisInv.congr (ha : AxisInv s k a) (h : SameControl s t) : AxisInv t k a := by
  rw [h]
  exact { ha with }

theorem Inside.sameControl (h : Inside s t) : SameControl s t := by
  unfold SameControl
  conv_lhs => rw [h.eq]
  rw [show t.axes = s.axes from (congrArg State.axes h.eq :)]

theorem OneAxis.sameControl (h : OneAxis k s t) : SameControl s t := by
  unfold SameControl
  conv_lhs => rw [h.eq]
  rw [h.eq]

theorem Inv.inside (hi : Inv s) (h : Inside s t) : Inv t :=
  (inv_iff t).2 ⟨hi.control.congr h.sameControl (h.buffers hi.control.buffers), fun k => by
    rw [h.axis k]
    exact (hi.axis k).congr h.sameControl⟩

/-- A move on one axis has only that axis to answer for. -/
theorem Inv.oneAxis (hi : Inv s) (h : OneAxis k s t) (hk : AxisInv s k (t.axis k)) : Inv t := by
  have hb : HostBuffers t := by
    rw [h.eq]
    exact hi.control.buffers
  refine (inv_iff t).2 ⟨hi.control.congr h.sameControl hb, fun j => ?_⟩
  by_cases hj : j = k
  · exact hj ▸ hk.congr h.sameControl
  · rw [h.other j hj]
    exact (hi.axis j).congr h.sameControl

theorem Inv.modAxis (hi : Inv s) {f : Axis → Axis} (hk : AxisInv s k (f (s.axis k))) : Inv (s.modAxis k f) :=
  hi.oneAxis (oneAxis_modAxis s k f) (by rwa [State.axis_modAxis_self])

/-! ### What an axis is bound to by the phase -/

theorem AxisInv.wstep_done (ha : AxisInv s k a) (hr : s.phase ≠ .refresh) (hd : s.phase ≠ .dispatch) :
    a.wstep = .done := by
  obtain h | ⟨-, h, -⟩ | ⟨-, h, -⟩ := ha.wstep
  · exact h
  · exact absurd h hr
  · exact absurd h hd

theorem AxisInv.wait_eq_none (ha : AxisInv s k a) (h : ¬ Owned s k a) : a.wait = none :=
  Option.eq_none_iff_forall_ne_some.2 fun since hw => h (ha.wait since hw).1

theorem AxisInv.smp_eq (ha : AxisInv s k a) (h : ¬(s.phase = .dispatch ∧ s.mode = .imp ∧ a.wstep = .cmd)) :
    a.smp = {} :=
  not_not.1 (mt ha.samples h)

/-- No worker is busy with the axis, no read is in progress on its channel, and no setpoint is sampled. -/
structure AtRest (a : Axis) : Prop where
  wstep : a.wstep = .done
  wait : a.wait = none
  smp : a.smp = {}

theorem AxisInv.atRest (ha : AxisInv s k a) (hw : a.wstep = .done)
    (hc : s.phase = .startup ∨ s.phase = .shutdown → s.currentAxis ≠ some k) : AtRest a where
  wstep := hw
  wait := ha.wait_eq_none (by
    rintro (h | h | ⟨h, -⟩ | ⟨hp, h⟩)
    · simp [hw] at h
    · simp [hw] at h
    · simp [hw] at h
    · exact hc hp h)
  smp := ha.smp_eq (by simp [hw])

/-- An axis at rest is bound by its registers and its lifecycle alone. -/
theorem AtRest.axisInv (h : AtRest a) (hr : AxisRegs a)
    (hid : s.busy = true → s.active k = true → a.axisId.isSome = true)
    (hvalid : s.phase = .compute ∨ s.phase = .dispatch → s.active k = true → s.required.getLsbD k.val = true →
      a.valid = true)
    (hrun : RunPhase s.phase → s.active k = true → a.life = .running)
    (hstart : s.phase = .startup → (s.active k = true → k.val < s.seqAxis → a.life = .zeroed) ∧
      (s.seqStep = .zero → s.currentAxis = some k → a.life = .enabled)) :
    AxisInv s k a where
  toAxisRegs := hr
  idSet := hid
  wstep := .inl h.wstep
  wait := fun since hw => by simp [h.wait] at hw
  torque := fun _ _ hw => by simp [h.wstep] at hw
  valid := hvalid
  running := hrun
  zeroed := fun hp => (hstart hp).1
  enabled := fun hp => (hstart hp).2
  samples := fun hs => absurd h.smp hs

theorem not_busy_iff : s.busy = false ↔ s.phase = .idle ∨ s.phase = .halted := by
  unfold State.busy
  cases s.phase <;> decide

theorem RunPhase.busy (h : RunPhase s.phase) : s.busy = true := by
  obtain ⟨hidle, hhalted, -⟩ := h
  simp [State.busy, hidle, hhalted]

/-! ### Outside a run -/

/-- Outside a run every axis is at rest. -/
theorem Inv.rest_of_not_busy (hi : Inv s) (hb : s.busy = false) (k : AxisIx) : AtRest (s.axis k) := by
  have hp := not_busy_iff.1 hb
  have hdone : (s.axis k).wstep = .done :=
    (hi.axis k).wstep_done (fun h => by simp [h] at hp) (fun h => by simp [h] at hp)
  exact (hi.axis k).atRest hdone (by rintro (h | h) <;> simp [h] at hp)

theorem axisInv_of_not_busy (hb : s.busy = false) (hr : AxisRegs a) (ha : AtRest a) : AxisInv s k a := by
  have hp := not_busy_iff.1 hb
  refine ha.axisInv hr (by simp [hb]) ?_ (fun h => by simp [h.busy] at hb) (fun h => by simp [h] at hp)
  rintro (h | h) <;> simp [h] at hp

/-- Outside a run the invariants are the bounds of the registers. -/
theorem inv_of_not_busy (hb : s.busy = false) (hlegal : LegalRegs s) (hbuf : HostBuffers s)
    (hclock : s.tStart ≤ s.now ∧ s.tEnd ≤ s.now) (haxes : ∀ k, AxisRegs (s.axis k) ∧ AtRest (s.axis k)) : Inv s := by
  have hp := not_busy_iff.1 hb
  have hsleep : s.phase ≠ .sleep := fun h => by simp [h] at hp
  have htick : ¬(s.phase = .compute ∨ s.phase = .dispatch) := by rintro (h | h) <;> simp [h] at hp
  obtain ⟨hstart, hend⟩ := hclock
  exact (inv_iff s).2 ⟨⟨hlegal, hbuf, by simp [hb], ⟨hstart, hend, fun h => absurd h hsleep⟩,
    fun h => absurd h htick, fun h => absurd h hsleep⟩, fun k => axisInv_of_not_busy hb (haxes k).1 (haxes k).2⟩

end Sys2Proof.Machine
end

section
/-! PROOF. The moves of the host, of the devices, of time and of a worker keep the invariants. -/

namespace Sys2Proof.Machine

variable {s t u v : State} {k : AxisIx} {a b : Axis}

/-! ### Moves of the host, of the devices and of time -/

/-- A write of registers of an axis that no invariant reads, and of its channel. -/
theorem AxisInv.moved (ha : AxisInv s k a)
    (hb : b = { a with
      chAddr := b.chAddr, baud := b.baud, rxq := b.rxq, txh := b.txh, pDes := b.pDes, vDes := b.vDes, tFf := b.tFf,
      codec := b.codec, wait := b.wait, held := b.held })
    (htx : b.codec.txbuf.length ≤ 261) (hw : ∀ since, b.wait = some since → Owned s k a ∧ InTime s since) :
    AxisInv s k b := by
  rw [hb]
  exact { ha with toAxisRegs := ⟨ha.group, ha.axisId, htx⟩, wait := hw }

/-- A write of one axis outside a run. -/
theorem Inv.modAxis_of_not_busy (hi : Inv s) (hb : s.busy = false) {f : Axis → Axis} (hr : AxisRegs (f (s.axis k)))
    (hrest : AtRest (f (s.axis k))) : Inv (s.modAxis k f) :=
  hi.modAxis (axisInv_of_not_busy hb hr hrest)

/-- Bytes that arrive leave an axis at rest and its registers in bounds. -/
theorem Receives.regs_rest (h : Receives a b) (hr : AxisRegs a) (hrest : AtRest a) : AxisRegs b ∧ AtRest b := by
  obtain ⟨bytes, rfl⟩ := h
  exact ⟨⟨hr.group, hr.axisId, hr.txbuf⟩, hrest.wstep, hrest.wait, hrest.smp⟩

theorem Inv.hostMoved (hi : Inv s) (hb : s.busy = false) (h : HostMoved k s t) : Inv t := by
  have hregs := fun j => (hi.axis j).toAxisRegs
  have hrest := hi.rest_of_not_busy hb
  have hstart := hi.tStart_le
  have hend := hi.tEnd_le
  have hnow := h.now
  have hbusy := h.frame.channels.busy
  refine inv_of_not_busy (hbusy.trans hb) ?_ ?_ ?_ fun j => ?_
  · rw [h.frame.1]
    exact hi.control.legal
  · rw [h.frame.1]
    exact hi.control.buffers
  · rw [h.frame.channels.tStart, h.frame.channels.tEnd]
    omega
  · by_cases hj : j = k
    · subst hj
      have htx := h.txbuf (hregs j).txbuf
      have hwait := h.wait.trans (hrest j).wait
      rw [h.frame.2.2]
      exact ⟨⟨(hregs j).group, (hregs j).axisId, htx⟩, (hrest j).wstep, hwait, (hrest j).smp⟩
    · exact (h.frame.other hj).regs_rest (hregs j) (hrest j)

theorem Inv.writeTorque (hi : Inv s) (k : AxisIx) (q : Rat) : Inv (s.modAxis k fun a => { a with tq := some q }) := by
  have ha := hi.axis k
  exact hi.modAxis { ha with toAxisRegs := ⟨ha.group, ha.axisId, ha.txbuf⟩, torque := fun _ _ _ => rfl }

theorem Inv.setTorques (hi : Inv s) (t0 t1 : Rat) : Inv (s.setTorques t0 t1) :=
  (hi.writeTorque 0 t0).writeTorque 1 t1

theorem Inv.startRun (hi : Inv s) (hb : s.busy = false) (hc : s.configured = true) :
    Inv { s with cancel := false, ticks := 0, phase := .startup, seqAxis := 0, seqStep := .enable } := by
  obtain ⟨hset, hids⟩ := (configured_iff s).1 hc
  have hctl := hi.control
  refine (inv_iff _).2 ⟨⟨hctl.legal, hctl.buffers, fun _ => hset, ⟨hi.tStart_le, hi.tEnd_le, nofun⟩, by simp, nofun⟩,
    fun k => ?_⟩
  exact (hi.rest_of_not_busy hb k).axisInv (hi.axis k).toAxisRegs (fun _ => hids k) (by simp)
    (fun ⟨_, _, h, _⟩ => absurd rfl h) fun _ => ⟨fun _ h => absurd h (Nat.not_lt_zero _), nofun⟩

theorem Inv.hostUpdate (hi : Inv s) (h : HostUpdate s t) : Inv t := by
  cases h with
  | inside h => exact hi.inside h
  | channel k hb h => exact hi.hostMoved hb h
  | group k g hb =>
    have hrest := hi.rest_of_not_busy hb k
    have hr := hi.axis k
    exact hi.modAxis_of_not_busy hb ⟨by cases g <;> simp, hr.axisId, hr.txbuf⟩ ⟨hrest.wstep, hrest.wait, hrest.smp⟩
  | torques t0 t1 => exact hi.setTorques t0 t1
  | run hb hc => exact hi.startRun hb hc

theorem Inv.hostUpdates (hi : Inv s) (h : HostUpdates s t) : Inv t := by
  induction h with
  | refl => exact hi
  | tail _ hu ih => exact ih.hostUpdate hu

/-- Outside a run configuration registers are written. -/
theorem Inv.writeConfig (hi : Inv s) (hb : s.busy = false)
    (h : t = { s with
      nax := t.nax, kp := t.kp, kd := t.kd, limit := t.limit, period := t.period, tRead := t.tRead, mode := t.mode,
      required := t.required })
    (hlegal : LegalRegs t) : Inv t := by
  rw [h] at hlegal ⊢
  exact inv_of_not_busy hb hlegal hi.control.buffers ⟨hi.tStart_le, hi.tEnd_le⟩ fun k =>
    ⟨(hi.axis k).toAxisRegs, hi.rest_of_not_busy hb k⟩

theorem Inv.configWrite (hi : Inv s) {legal : Bool} {w : State} (hw : s.busy = false → legal = true → Inv w) :
    Inv (configWrite s legal w) := by
  obtain ⟨r, h⟩ | ⟨hb, hl, h⟩ := configWrite_cases s legal w
  · rw [h]
    exact hi.inside (inside_answer s r)
  · rw [h]
    exact (hw hb hl).inside (inside_answer w _)

/-- A setpoint, a channel address or a baud rate is written. -/
theorem Inv.modAxis_unread (hi : Inv s) {f : Axis → Axis}
    (hf : f (s.axis k) = { s.axis k with
      chAddr := (f (s.axis k)).chAddr, baud := (f (s.axis k)).baud, rxq := (f (s.axis k)).rxq,
      pDes := (f (s.axis k)).pDes, vDes := (f (s.axis k)).vDes, tFf := (f (s.axis k)).tFf }) :
    Inv (s.modAxis k f) := by
  refine hi.modAxis ?_
  rw [hf]
  exact (hi.axis k).moved rfl (hi.axis k).txbuf (hi.axis k).wait

theorem Inv.axisIdWrite (hi : Inv s) (hb : s.busy = false) {v : Byte} (h1 : 1 ≤ v.toNat) (h2 : v.toNat ≤ 32) :
    Inv (s.modAxis k fun a => { a with axisId := some v }) := by
  have hrest := hi.rest_of_not_busy hb k
  refine hi.modAxis_of_not_busy hb ⟨(hi.axis k).group, ?_, (hi.axis k).txbuf⟩ ⟨hrest.wstep, hrest.wait, hrest.smp⟩
  rintro _ ⟨⟩
  exact ⟨h1, h2⟩

theorem Inv.hostWrite (hi : Inv s) (w : RegWrite) : Inv (hostWrite w s) := by
  obtain ⟨hnax, hlimit, hperiod, htRead⟩ := hi.control.legal
  cases w with
  | nax n =>
    refine hi.configWrite fun hb hl => hi.writeConfig hb rfl ⟨?_, hlimit, hperiod, htRead⟩
    rintro _ ⟨⟩
    simpa using hl
  | limit q =>
    refine hi.configWrite fun hb hl => hi.writeConfig hb rfl ⟨hnax, ?_, hperiod, htRead⟩
    rintro _ ⟨⟩
    simpa using hl
  | period n =>
    refine hi.configWrite fun hb hl => hi.writeConfig hb rfl ⟨hnax, hlimit, ?_, htRead⟩
    rintro _ ⟨⟩
    simpa using hl
  | tRead n =>
    refine hi.configWrite fun hb hl => hi.writeConfig hb rfl ⟨hnax, hlimit, hperiod, ?_⟩
    rintro _ ⟨⟩
    simpa using hl
  | kp | kd | mode | required =>
    exact hi.configWrite fun hb _ => hi.writeConfig hb rfl hi.control.legal
  | axisId k v =>
    refine hi.configWrite fun hb hl => ?_
    obtain ⟨h1, h2⟩ : 1 ≤ v.toNat ∧ v.toNat ≤ 32 := by simpa using hl
    exact hi.axisIdWrite hb h1 h2
  | chAddr k v | baud k v => exact hi.configWrite fun _ _ => hi.modAxis_unread rfl
  | pDes k v | vDes k v | tFf k v => exact (hi.modAxis_unread rfl).inside (inside_answer _ _)
  | rxbuf bytes => exact hi.inside (hostWrite_rxbuf_inside bytes s)

/-- Time passes, but past the end of no read. -/
theorem Inv.passTime (hi : Inv s) (dt : Nat) : Inv (s.passTime dt) := by
  obtain ⟨hframe, hle, -, hreads, -⟩ := s.passTime_spec dt
  rw [hframe]
  have hctl := hi.control
  obtain ⟨hstart, hend, hsleep⟩ := hctl.clock
  refine (inv_iff _).2 ⟨{ hctl with clock := ⟨hstart.trans hle, hend.trans hle, hsleep⟩ }, fun k => ?_⟩
  have ha := hi.axis k
  refine { ha with wait := fun since hw => ?_ }
  obtain ⟨hown, hsince, hT⟩ := ha.wait since hw
  exact ⟨hown, hsince.trans hle, fun T h => hreads T h k since hw (hT T h)⟩

/-! ### Moves of a worker -/

theorem Inv.sampleMove (hi : Inv s) (k : AxisIx) (r : Setpoint) : Inv (sampleMove s k r) := by
  unfold Machine.sampleMove
  split
  next hg =>
    obtain ⟨-, hp, hm, hstep⟩ := hg
    have ha := hi.axis k
    refine hi.modAxis ?_
    rw [Axis.sample_frame]
    exact { ha with toAxisRegs := ⟨ha.group, ha.axisId, ha.txbuf⟩, samples := fun _ => ⟨hp, hm, hstep⟩ }
  next => exact hi

/-- Moves on channel `k` that leave a read there only to an owner, and in time. -/
theorem Inv.channelMoved (hi : Inv s) (hu : ChannelMoved k s u)
    (hw : ∀ since, (u.axis k).wait = some since → Owned s k (s.axis k) ∧ InTime s since) : Inv u := by
  refine hi.oneAxis hu.oneAxis ((hi.axis k).moved ?_ (hu.txbuf (hi.axis k).txbuf) hw)
  conv_lhs => rw [hu.frame.2.2]
  rw [hu.frame.2.2]

theorem Inv.inProgress (hi : Inv s) (hown : Owned s k (s.axis k)) (hu : InProgress k s u) : Inv u := by
  refine hi.channelMoved hu.toChannelMoved fun since hw => ⟨hown, ?_⟩
  rw [hu.wait] at hw
  cases hs : (s.axis k).wait with
  | none =>
    obtain rfl : s.now = since := by simpa [hs] using hw
    exact ⟨le_rfl, fun T _ => Nat.le_add_right _ _⟩
  | some since' =>
    obtain rfl : since' = since := by simpa [hs] using hw
    exact ((hi.axis k).wait since' hs).2

theorem Inv.ended (hi : Inv s) (hu : Ended k s u) : Inv u :=
  hi.channelMoved hu.toChannelMoved fun since hw => by simp [hu.wait] at hw

theorem MayReport.inside (h : MayReport s t) : Inside s t := by
  obtain rfl | ⟨r, rfl⟩ := h
  · exact inside_refl t
  · exact inside_report s r

/-- A worker whose read has ended, and whose samples are used up, is done. -/
theorem Inv.finish (hi : Inv s) (hw : (s.axis k).wait = none) (hs : (s.axis k).smp = {}) : Inv (s.finish k) := by
  have ha := hi.axis k
  exact hi.modAxis
    { ha with
      toAxisRegs := ⟨ha.group, ha.axisId, ha.txbuf⟩
      wstep := .inl rfl
      wait := fun since h => by simp [hw] at h
      torque := nofun
      samples := fun h => absurd hs h }

/-- The group update of the refresh phase. -/
theorem Inv.setGroup (hi : Inv s) (hp : s.phase = .refresh) (g : Option (BitVec 64 × BitVec 16 × BitVec 16)) :
    Inv (s.setGroup k g) := by
  have ha := hi.axis k
  exact hi.modAxis
    { ha with toAxisRegs := ⟨by cases g <;> simp, ha.axisId, ha.txbuf⟩, valid := fun h => by simp [hp] at h }

theorem Inv.clearSamples (hi : Inv s) : Inv (s.clearSamples k) := by
  have ha := hi.axis k
  exact hi.modAxis { ha with toAxisRegs := ⟨ha.group, ha.axisId, ha.txbuf⟩, samples := fun h => absurd rfl h }

/-- The second transaction of a refresh is next. -/
theorem Inv.holdAngle (hi : Inv s) (hk : s.active k = true) (hp : s.phase = .refresh) (hw : (s.axis k).wait = none)
    (raw : BitVec 64) : Inv (s.modAxis k fun a => { a with held := raw, wstep := .t2 }) := by
  have ha := hi.axis k
  have hs : (s.axis k).smp = {} := ha.smp_eq (by simp [hp])
  exact hi.modAxis
    { ha with
      toAxisRegs := ⟨ha.group, ha.axisId, ha.txbuf⟩
      wstep := .inr (.inl ⟨hk, hp, .inr rfl⟩)
      wait := fun since h => by simp [hw] at h
      torque := nofun
      samples := fun h => absurd hs h }

/-- The impedance dispatch reads nothing (`47_sequencer.md` R268). -/
theorem AxisInv.wait_of_imp (ha : AxisInv s k a) (hp : s.phase = .dispatch) (hm : s.mode = .imp) : a.wait = none := by
  refine ha.wait_eq_none ?_
  have hstep : a.wstep = .done ∨ a.wstep = .cmd := by
    obtain h | ⟨-, h, -⟩ | ⟨-, -, h⟩ := ha.wstep
    · exact .inl h
    · simp [hp] at h
    · exact .inr h
  rintro (h | h | ⟨-, h⟩ | ⟨h, -⟩)
  · simp [h] at hstep
  · simp [h] at hstep
  · simp [hm] at h
  · simp [hp] at h

theorem Inv.workerEnd (hi : Inv s) (h : WorkerEnd s k t) : Inv t := by
  cases h with
  | waits => exact hi
  | pending u hu hown => exact hi.inProgress (by unfold Owned; tauto) hu
  | angle u raw hk hp hu =>
    exact (hi.ended hu).holdAngle ((hu.frame.channels.active k).trans hk) (hu.frame.channels.phase.trans hp) hu.wait raw
  | refreshed u v g hp hu hv =>
    have hpu : u.phase = .refresh := hu.frame.channels.phase.trans hp
    have hiv : Inv v := ((hi.ended hu).setGroup hpu g).inside hv.inside
    have hax : v.axis k = (u.setGroup k g).axis k := hv.axis k
    have hsmp : (u.axis k).smp = {} := ((hi.ended hu).axis k).smp_eq (by simp [hpu])
    exact hiv.finish (by simp [hax, State.setGroup, hu.wait]) (by simp [hax, State.setGroup, hsmp])
  | torque u v hp hm hu hv =>
    have hmu : u.mode = .pd := hu.frame.channels.mode.trans hm
    have hsmp : (u.axis k).smp = {} := ((hi.ended hu).axis k).smp_eq (by simp [hmu])
    exact ((hi.ended hu).inside hv.inside).finish (by rw [hv.axis k, hu.wait]) (by rw [hv.axis k, hsmp])
  | setpoints u v hp hm hu hw hv =>
    have hnone : (s.axis k).wait = none := (hi.axis k).wait_of_imp hp hm
    have hiu : Inv u := hi.channelMoved hu fun since h => by simp [hw, hnone] at h
    exact ((hiu.inside hv.inside).clearSamples).finish
      (by simp [State.clearSamples, hv.axis k, hw, hnone]) (by simp [State.clearSamples])

end Sys2Proof.Machine
end

section
/-! PROOF. The moves of the sequencer keep the invariants, and with them every step. -/

namespace Sys2Proof.Machine

variable {s t u v : State} {k : AxisIx} {a b : Axis}

/-! ### Axes at rest -/

theorem Inv.atRest_of_phase (hi : Inv s) (hr : s.phase ≠ .refresh) (hd : s.phase ≠ .dispatch)
    (hs : s.phase ≠ .startup) (hh : s.phase ≠ .shutdown) (k : AxisIx) : AtRest (s.axis k) :=
  (hi.axis k).atRest ((hi.axis k).wstep_done hr hd) fun h => absurd h (not_or.2 ⟨hs, hh⟩)

/-- Once the barrier is passed no worker is busy; the axes that do not exist never were. -/
theorem Inv.atRest_of_barrier (hi : Inv s) (hb : s.barrierPassed = true) (hs : s.phase ≠ .startup)
    (hh : s.phase ≠ .shutdown) (k : AxisIx) : AtRest (s.axis k) := by
  have hdone : (s.axis k).wstep = .done := by
    obtain h | ⟨hk, -⟩ | ⟨hk, -⟩ := (hi.axis k).wstep
    · exact h
    · exact (State.barrierPassed_iff s).1 hb k hk
    · exact (State.barrierPassed_iff s).1 hb k hk
  exact (hi.axis k).atRest hdone fun h => absurd h (not_or.2 ⟨hs, hh⟩)

/-- In `Startup` and `Shutdown` only the axis the sequencer is at can be in a read. -/
theorem Inv.atRest_of_currentAxis (hi : Inv s) (hp : s.phase = .startup ∨ s.phase = .shutdown)
    (hk : ∀ k, s.currentAxis = some k → (s.axis k).wait = none) (k : AxisIx) : AtRest (s.axis k) := by
  have ha := hi.axis k
  have hdone : (s.axis k).wstep = .done := by
    obtain h | h := hp <;> exact ha.wstep_done (by simp [h]) (by simp [h])
  by_cases hc : s.currentAxis = some k
  · exact ⟨hdone, hk k hc, ha.smp_eq (by simp [hdone])⟩
  · exact ha.atRest hdone fun _ => hc

/-! ### Moves from phase to phase -/

/-- With every axis at rest, a move of the sequencer that writes its own registers and lifecycles has to answer for the
clock, the validity check, the lifecycles, the sleep and the place in `Startup` alone. -/
theorem Inv.advance (hi : Inv s) (hb : s.busy = true) (hrest : ∀ k, AtRest (s.axis k))
    (h : t = { s with
      axes := t.axes, phase := t.phase, rlog := t.rlog, overrun := t.overrun, skip := t.skip, tEnd := t.tEnd,
      seqStep := t.seqStep, seqAxis := t.seqAxis })
    (hlife : ∀ j, t.axis j = { s.axis j with life := (t.axis j).life })
    (hclock : ClockOrder t) (htick : TickChecked t) (hrun : AxesRunning t) (hsleep : SleepEarned t)
    (hplace : StartupPlace t) : Inv t := by
  have hactive := State.active_congr (congrArg State.nax h :)
  have hctl : ControlInv t := by
    refine ⟨?_, ?_, fun _ => ?_, hclock, fun hp => (htick hp).1, hsleep⟩
    all_goals rw [h]
    · exact hi.control.legal
    · exact hi.control.buffers
    · exact hi.control.regsSet hb
  refine (inv_iff t).2 ⟨hctl, fun k => ?_⟩
  have ha := hi.axis k
  refine AtRest.axisInv ?_ ?_ (fun _ hk => ?_) (fun hp => (skipNeeded_eq_false_iff t).1 (htick hp).2 k)
    (fun ⟨h1, h2, h3, h4⟩ => hrun h1 h2 h3 h4 k) fun hp => ⟨(hplace hp).1 k, fun hz => (hplace hp).2 hz k⟩
  all_goals rw [hlife k]
  · exact ⟨(hrest k).wstep, (hrest k).wait, (hrest k).smp⟩
  · exact ⟨ha.group, ha.axisId, ha.txbuf⟩
  · exact ha.idSet hb (hactive k ▸ hk)

/-- A move within `Startup` or `Shutdown`, or to `Shutdown` or `Halted`. -/
theorem Inv.advance_stage (hi : Inv s) (hb : s.busy = true) (hrest : ∀ k, AtRest (s.axis k))
    (h : t = { s with
      axes := t.axes, phase := t.phase, rlog := t.rlog, seqStep := t.seqStep, seqAxis := t.seqAxis })
    (hlife : ∀ j, t.axis j = { s.axis j with life := (t.axis j).life })
    (hp : t.phase = .startup ∨ t.phase = .shutdown ∨ t.phase = .halted) (hplace : StartupPlace t) : Inv t := by
  have hsleep : t.phase ≠ .sleep := fun h => by simp [h] at hp
  refine hi.advance hb hrest ?_ hlife ⟨?_, ?_, fun h => absurd h hsleep⟩ ?_ ?_ (fun h => absurd h hsleep) hplace
  · conv_lhs => rw [h]
    rw [h]
  · rw [h]
    exact hi.tStart_le
  · rw [h]
    exact hi.tEnd_le
  · rintro (h | h) <;> simp [h] at hp
  · intro h1 h2 h3 h4
    simp [h2, h3, h4] at hp

/-- A move from one phase of a run to another. -/
theorem Inv.advance_run (hi : Inv s) (hs : RunPhase s.phase) (ht : RunPhase t.phase) (hrest : ∀ k, AtRest (s.axis k))
    (h : t = { s with
      phase := t.phase, rlog := t.rlog, overrun := t.overrun, skip := t.skip, tEnd := t.tEnd })
    (hclock : ClockOrder t) (htick : TickChecked t) (hsleep : SleepEarned t) : Inv t := by
  have hax : ∀ k, t.axis k = s.axis k := State.axis_congr (congrArg State.axes h :)
  have hactive : ∀ k, t.active k = s.active k := State.active_congr (congrArg State.nax h :)
  refine hi.advance hs.busy hrest ?_ (fun j => by rw [hax j]) hclock htick (fun _ _ _ _ k hk => ?_) hsleep
    (have ⟨_, _, hstart, _⟩ := ht; fun hp => absurd hp hstart)
  · conv_lhs => rw [h]
    rw [h]
  · rw [hax k]
    exact (hi.axis k).running hs (hactive k ▸ hk)

/-- The phases of a run without a duty of their own. -/
def PlainPhase (p : Phase) : Prop := p = .check ∨ p = .timing ∨ p = .between ∨ p = .tickStart

/-- A move of a run to a phase without a duty of its own. -/
theorem Inv.advance_plain (hi : Inv s) (hs : RunPhase s.phase) (ht : PlainPhase t.phase)
    (hrest : ∀ k, AtRest (s.axis k))
    (h : t = { s with
      phase := t.phase, rlog := t.rlog, overrun := t.overrun, skip := t.skip, tEnd := t.tEnd })
    (hend : t.tEnd ≤ s.now) : Inv t := by
  have hrun : RunPhase t.phase := by
    obtain h | h | h | h := ht <;> rw [h] <;> exact ⟨nofun, nofun, nofun, nofun⟩
  have hsleep : t.phase ≠ .sleep := fun h => by simp [PlainPhase, h] at ht
  refine hi.advance_run hs hrun hrest h ⟨?_, ?_, fun h => absurd h hsleep⟩ ?_ fun h => absurd h hsleep
  · rw [h]
    exact hi.tStart_le
  · rw [show t.now = s.now from (congrArg State.now h :)]
    exact hend
  · rintro (h | h) <;> simp [PlainPhase, h] at ht

/-! ### `Startup` and `Shutdown` -/

theorem axis_modAxis_life (s : State) (k j : AxisIx) (l : Life) :
    (s.modAxis k fun a => { a with life := l }).axis j =
      { s.axis j with life := ((s.modAxis k fun a => { a with life := l }).axis j).life } := by
  rw [State.axis_modAxis]
  split
  next h => rw [h]
  next => rfl

theorem life_modAxis (s : State) (k j : AxisIx) (l : Life) :
    ((s.modAxis k fun a => { a with life := l }).axis j).life = if j = k then l else (s.axis j).life := by
  rw [State.axis_modAxis]
  split <;> rfl

/-- At the end of a transaction of `Startup` or `Shutdown` every axis is at rest. -/
theorem Inv.ended_stage (hi : Inv s) (hp : s.phase = .startup ∨ s.phase = .shutdown) (hc : s.currentAxis = some k)
    (hu : Ended k s u) : Inv u ∧ u.phase = s.phase ∧ u.currentAxis = some k ∧ ∀ j, AtRest (u.axis j) := by
  have hpu : u.phase = s.phase := hu.frame.channels.phase
  have hcu : u.currentAxis = some k := hu.frame.channels.currentAxis.trans hc
  refine ⟨hi.ended hu, hpu, hcu, (hi.ended hu).atRest_of_currentAxis (by rwa [hpu]) fun j hj => ?_⟩
  obtain rfl : k = j := by simpa [hcu] using hj
  exact hu.wait

theorem axis_startupRunning (s : State) (j : AxisIx) :
    ({ s.modActive (fun a => { a with life := .running }) with phase := .between } : State).axis j =
      if s.active j then { s.axis j with life := .running } else s.axis j :=
  s.axis_modActive j fun a => { a with life := .running }

theorem Inv.startupRunning (hi : Inv s) (hp : s.phase = .startup) (hc : s.currentAxis = none) :
    Inv { s.modActive (fun a => { a with life := .running }) with phase := .between } := by
  have hrest := hi.atRest_of_currentAxis (.inl hp) fun k h => by simp [hc] at h
  refine hi.advance (by simp [State.busy, hp]) hrest rfl (fun j => ?_)
    ⟨hi.tStart_le, hi.tEnd_le, nofun⟩ (by simp [TickChecked]) (fun _ _ _ _ j hj => ?_) nofun nofun
  · rw [axis_startupRunning]
    split <;> rfl
  · have hactive : s.active j = true := hj
    rw [axis_startupRunning, if_pos hactive]

theorem Inv.startupEnd (hi : Inv s) (hp : s.phase = .startup) (h : StartupEnd s t) : Inv t := by
  cases h with
  | running hc => exact hi.startupRunning hp hc
  | pending k u hc hu => exact hi.inProgress (.inr (.inr (.inr ⟨.inl hp, hc⟩))) hu
  | failed k u site e hc hu =>
    obtain ⟨hiu, hpu, -, hrest⟩ := hi.ended_stage (.inl hp) hc hu
    exact hiu.advance_stage (by simp [State.busy, hpu, hp]) hrest rfl (fun _ => rfl) (.inr (.inl rfl)) nofun
  | enabled k u hc hu =>
    obtain ⟨hiu, hpu, hcu, hrest⟩ := hi.ended_stage (.inl hp) hc hu
    have hpu : u.phase = .startup := hpu.trans hp
    refine hiu.advance_stage (by simp [State.busy, hpu]) hrest rfl (axis_modAxis_life u k · .enabled) (.inl hpu)
      fun _ => ⟨fun j hj hlt => ?_, fun _ j hj => ?_⟩
    · have hne : j ≠ k := by
        rintro rfl
        exact absurd hlt (by simp [(State.currentAxis_some hcu).1])
      exact (life_modAxis u k j .enabled).trans ((if_neg hne).trans ((hiu.axis j).zeroed hpu hj hlt))
    · obtain rfl : k = j := Option.some.inj (hcu.symm.trans hj)
      exact (life_modAxis u k k .enabled).trans (if_pos rfl)
  | zeroed k u hc hu =>
    obtain ⟨hiu, hpu, hcu, hrest⟩ := hi.ended_stage (.inl hp) hc hu
    have hpu : u.phase = .startup := hpu.trans hp
    refine hiu.advance_stage (by simp [State.busy, hpu]) hrest rfl (axis_modAxis_life u k · .zeroed) (.inl hpu)
      fun _ => ⟨fun j hj hlt => ?_, nofun⟩
    by_cases hjk : j = k
    · exact (life_modAxis u k j .zeroed).trans (if_pos hjk)
    · have hlt' : j.val < u.seqAxis := by
        have hplace := (State.currentAxis_some hcu).1
        have hval : j.val ≠ k.val := fun h => hjk (Fin.ext h)
        have hle : j.val < u.seqAxis + 1 := hlt
        omega
      exact (life_modAxis u k j .zeroed).trans ((if_neg hjk).trans ((hiu.axis j).zeroed hpu hj hlt'))

theorem Inv.shutdownEnd (hi : Inv s) (hp : s.phase = .shutdown) (h : ShutdownEnd s t) : Inv t := by
  cases h with
  | halted hc =>
    have hrest := hi.atRest_of_currentAxis (.inr hp) fun k h => by simp [hc] at h
    exact hi.advance_stage (by simp [State.busy, hp]) hrest rfl (fun _ => rfl) (.inr (.inr rfl)) nofun
  | pending k u hc hu => exact hi.inProgress (.inr (.inr (.inr ⟨.inr hp, hc⟩))) hu
  | failed k u e hc hu =>
    obtain ⟨hiu, hpu, -, hrest⟩ := hi.ended_stage (.inr hp) hc hu
    have hpu : u.phase = .shutdown := hpu.trans hp
    exact hiu.advance_stage (by simp [State.busy, hpu]) hrest rfl (fun _ => rfl) (.inr (.inl hpu))
      fun h => by simp [hpu] at h
  | disabled k u hc hu =>
    obtain ⟨hiu, hpu, -, hrest⟩ := hi.ended_stage (.inr hp) hc hu
    have hpu : u.phase = .shutdown := hpu.trans hp
    exact hiu.advance_stage (by simp [State.busy, hpu]) hrest rfl (axis_modAxis_life u k · .disabled) (.inr (.inl hpu))
      fun h => by simp [hpu] at h

/-! ### The tick -/

theorem runPhase_of_eq {p : Phase} (h : s.phase = p) (hp : p ∉ [Phase.idle, .halted, .startup, .shutdown]) :
    RunPhase s.phase := by
  simpa [RunPhase, h] using hp

/-- In the phases of a run in which no worker is alive every axis is at rest. -/
theorem Inv.atRest_of_tick (hi : Inv s) {p : Phase} (hp : s.phase = p)
    (h : p ∈ [Phase.tickStart, .check, .compute, .timing, .sleep, .between]) :
    RunPhase s.phase ∧ ∀ k, AtRest (s.axis k) := by
  subst hp
  refine ⟨?_, hi.atRest_of_phase ?_ ?_ ?_ ?_⟩
  · refine runPhase_of_eq rfl fun hn => ?_
    simp only [List.mem_cons, List.not_mem_nil, or_false] at h hn
    obtain hn | hn | hn | hn := hn <;> simp [hn] at h
  all_goals
    intro hn
    simp [hn] at h

theorem axis_tickStartMove (s : State) (k : AxisIx) :
    (tickStartMove s).axis k = if s.active k then { s.axis k with tq := none, wstep := .t1 } else s.axis k :=
  s.axis_modActive k fun a => { a with tq := none, wstep := .t1 }

/-- At the start of a tick every worker is alive and has its first transaction to make. -/
theorem Inv.tickStartMove (hi : Inv s) (hp : s.phase = .tickStart) : Inv (tickStartMove s) := by
  obtain ⟨hrun, hrest⟩ := hi.atRest_of_tick hp (by decide)
  have hctl := hi.control
  refine (inv_iff _).2 ⟨⟨hctl.legal, hctl.buffers, fun _ => hctl.regsSet hrun.busy, ⟨le_rfl, hi.tEnd_le, nofun⟩,
    by simp [Machine.tickStartMove], nofun⟩, fun k => ?_⟩
  have ha := hi.axis k
  have hrest := hrest k
  rw [axis_tickStartMove]
  split
  next hk =>
    exact
      { toAxisRegs := ⟨ha.group, ha.axisId, ha.txbuf⟩
        idSet := fun _ => ha.idSet hrun.busy
        wstep := .inr (.inl ⟨hk, rfl, .inl rfl⟩)
        wait := fun since h => by simp [hrest.wait] at h
        torque := nofun
        valid := by simp [Machine.tickStartMove]
        running := fun _ => ha.running hrun
        zeroed := nofun
        enabled := nofun
        samples := fun h => absurd hrest.smp h }
  next hk =>
    exact hrest.axisInv ha.toAxisRegs (fun _ => ha.idSet hrun.busy) (by simp [Machine.tickStartMove])
      (fun _ => ha.running hrun) nofun

theorem Inv.checkMove (hi : Inv s) (hp : s.phase = .check) : Inv (checkMove s) := by
  obtain ⟨hrun, hrest⟩ := hi.atRest_of_tick hp (by decide)
  unfold Machine.checkMove
  split
  next => exact hi.advance_plain hrun (.inr (.inl rfl)) hrest rfl hi.tEnd_le
  next hskip =>
    have hvalid : s.skipNeeded = false := by simpa using hskip
    exact hi.advance_run hrun ⟨nofun, nofun, nofun, nofun⟩ hrest rfl ⟨hi.tStart_le, hi.tEnd_le, nofun⟩
      (fun _ => ⟨rfl, hvalid⟩) nofun

theorem axis_enterDispatch (s : State) (k : AxisIx) :
    s.enterDispatch.axis k = if s.active k then { s.axis k with wstep := .cmd } else s.axis k :=
  s.axis_modActive k fun a => { a with wstep := .cmd }

/-- In the dispatch phase every worker has its command pending; in mode PD its torque is there. -/
theorem Inv.enterDispatch (hi : Inv s) (hp : s.phase = .compute)
    (htq : s.mode = .pd → ∀ k, s.active k = true → (s.axis k).tq.isSome = true) : Inv s.enterDispatch := by
  obtain ⟨hrun, hrest⟩ := hi.atRest_of_tick hp (by decide)
  have hctl := hi.control
  refine (inv_iff _).2 ⟨⟨hctl.legal, hctl.buffers, fun _ => hctl.regsSet hrun.busy,
    ⟨hi.tStart_le, hi.tEnd_le, nofun⟩, fun _ => hctl.skip (.inl hp), nofun⟩, fun k => ?_⟩
  have ha := hi.axis k
  have hrest := hrest k
  rw [axis_enterDispatch]
  split
  next hk =>
    exact
      { toAxisRegs := ⟨ha.group, ha.axisId, ha.txbuf⟩
        idSet := fun _ => ha.idSet hrun.busy
        wstep := .inr (.inr ⟨hk, rfl, rfl⟩)
        wait := fun since h => by simp [hrest.wait] at h
        torque := fun _ hm _ => htq hm k hk
        valid := fun _ => ha.valid (.inl hp)
        running := fun _ => ha.running hrun
        zeroed := nofun
        enabled := nofun
        samples := fun h => absurd hrest.smp h }
  next hk =>
    exact hrest.axisInv ha.toAxisRegs (fun _ => ha.idSet hrun.busy) (fun _ => ha.valid (.inl hp))
      (fun _ => ha.running hrun) nofun

/-- `COMPUTE.PD` gives every axis its torque: there are two (R251, R262). -/
theorem setTorques_isSome (hnax : s.nax = some 2) (t0 t1 : Rat) (hk : s.active k = true) :
    ((s.setTorques t0 t1).axis k).tq.isSome = true := by
  have hlt : k.val < 2 := by simpa [State.active, hnax] using hk
  obtain rfl | rfl : k = 0 ∨ k = 1 := by
    obtain h | h : k.val = 0 ∨ k.val = 1 := by omega
    · exact .inl (Fin.ext h)
    · exact .inr (Fin.ext h)
  · simp [State.setTorques]
  · simp [State.setTorques]

theorem Inv.computeMove (hi : Inv s) (hp : s.phase = .compute) (h : computeMove s = .next t) : Inv t := by
  obtain ⟨hrun, hrest⟩ := hi.atRest_of_tick hp (by decide)
  unfold Machine.computeMove at h
  split at h
  next hm =>
    cases h
    exact hi.enterDispatch hp fun h => by simp [hm] at h
  next hm =>
    split at h
    next => cases h
    next =>
      cases h
      exact hi.advance_plain hrun (.inr (.inl rfl)) hrest rfl hi.tEnd_le
    next t0 t1 _ =>
      cases h
      obtain ⟨-, -, -, -, -, -, hnax⟩ := hi.control.regsSet hrun.busy
      exact (hi.setTorques t0 t1).enterDispatch hp fun _ k hk => setTorques_isSome (hnax hm) t0 t1 hk

/-- `Timing` goes to `Sleep` only after a tick that took less than its period (R271). -/
theorem Inv.timingMove (hi : Inv s) (hp : s.phase = .timing) (h : timingMove s = .next t) : Inv t := by
  obtain ⟨hrun, hrest⟩ := hi.atRest_of_tick hp (by decide)
  unfold Machine.timingMove at h
  split at h
  next => cases h
  next period hper =>
    dsimp only at h
    split at h
    next =>
      cases h
      exact hi.advance_plain hrun (.inr (.inr (.inl rfl))) hrest rfl le_rfl
    next hover =>
      cases h
      refine hi.advance_run hrun ⟨nofun, nofun, nofun, nofun⟩ hrest rfl ⟨hi.tStart_le, le_rfl, fun _ => hi.tStart_le⟩
        (by simp [TickChecked]) fun _ => ⟨rfl, fun p hp' => ?_⟩
      obtain rfl : period = p := Option.some.inj (hper.symm.trans hp')
      have hlt : s.now - s.tStart < period := Nat.lt_of_not_le fun hle => hover (decide_eq_true hle)
      exact hlt

theorem Inv.sleepMove (hi : Inv s) (hp : s.phase = .sleep) (h : sleepMove s = .next t) : Inv t := by
  unfold Machine.sleepMove at h
  split at h
  next => cases h
  next =>
    split at h
    next =>
      cases h
      obtain ⟨hrun, hrest⟩ := hi.atRest_of_tick hp (by decide)
      exact hi.advance_plain hrun (.inr (.inr (.inl rfl))) hrest rfl hi.tEnd_le
    next =>
      cases h
      exact hi

theorem Inv.betweenMove (hi : Inv s) (hp : s.phase = .between) : Inv (betweenMove s) := by
  obtain ⟨hrun, hrest⟩ := hi.atRest_of_tick hp (by decide)
  unfold Machine.betweenMove
  split
  next => exact hi.advance_stage hrun.busy hrest rfl (fun _ => rfl) (.inr (.inl rfl)) nofun
  next => exact hi.advance_plain hrun (.inr (.inr (.inr rfl))) hrest rfl hi.tEnd_le

theorem Inv.sequencerMove (hi : Inv s) (h : sequencerMove s = .next t) : Inv t := by
  unfold Machine.sequencerMove at h
  cases hp : s.phase <;> simp only [hp] at h
  case startup => exact hi.startupEnd hp (startupMove_ends h)
  case shutdown => exact hi.shutdownEnd hp (shutdownMove_ends h)
  case compute => exact hi.computeMove hp h
  case timing => exact hi.timingMove hp h
  case sleep => exact hi.sleepMove hp h
  case tickStart =>
    cases h
    exact hi.tickStartMove hp
  case check =>
    cases h
    exact hi.checkMove hp
  case between =>
    cases h
    exact hi.betweenMove hp
  case refresh =>
    split at h
    next hb =>
      cases h
      exact hi.advance_plain (runPhase_of_eq hp (by decide)) (.inl rfl)
        (hi.atRest_of_barrier hb (by simp [hp]) (by simp [hp])) rfl hi.tEnd_le
    next =>
      cases h
      exact hi
  case dispatch =>
    split at h
    next hb =>
      cases h
      exact hi.advance_plain (runPhase_of_eq hp (by decide)) (.inr (.inl rfl))
        (hi.atRest_of_barrier hb (by simp [hp]) (by simp [hp])) rfl hi.tEnd_le
    next =>
      cases h
      exact hi
  case idle | halted =>
    cases h
    exact hi

/-! ### Every step -/

theorem Inv.agentMove {e : Event} (hi : Inv s) (h : agentMove e s = .next t) : Inv t := by
  cases e with
  | worker k => exact hi.workerEnd (workerMove_ends h)
  | sequencer => exact hi.sequencerMove h
  | request r =>
    cases h
    exact hi.inside (inside_place s r)
  | write w =>
    cases h
    exact hi.hostWrite w
  | read r =>
    cases h
    exact hi.inside (inside_answer s _)
  | device k bytes =>
    cases h
    exact hi.modAxis_unread rfl
  | time dt =>
    cases h
    exact hi.passTime dt
  | sample k r =>
    cases h
    exact hi.sampleMove k r

theorem Inv.step (hi : Inv s) (h : step s = .next t) : Inv t := by
  obtain ⟨i, hx⟩ | rfl | hm := step_cases h
  · exact (hi.inside (inside_taken s)).hostUpdates (exec_updates hx)
  · exact hi.inside ((inside_taken s).trans (inside_answer _ _))
  · exact (hi.inside (inside_drawEvent s)).agentMove hm

theorem reset_axis (k : AxisIx) : State.reset.axis k = {} := by
  simp [State.axis, State.reset]

theorem reset_inv : Inv State.reset := by
  refine inv_of_not_busy rfl ⟨nofun, nofun, nofun, nofun⟩
    ⟨rfl, Nat.zero_le _, Nat.zero_le _, Nat.zero_le _⟩ ⟨le_rfl, le_rfl⟩ fun k => ?_
  rw [reset_axis k]
  exact ⟨⟨⟨rfl, rfl⟩, nofun, Nat.zero_le _⟩, rfl, rfl, rfl⟩

end Sys2Proof.Machine

namespace Sys2Proof.Proofs

open Sys2Proof.Machine

/-- Settles O58: every step is a move that keeps the invariants. -/
theorem everyStepKeepsTheInvariant : Obligations.EveryStepKeepsTheInvariant := by
  unfold Obligations.EveryStepKeepsTheInvariant
  exact fun _ _ hi h => hi.step h

/-- Settles O57: at reset the block is outside a run, and every axis is at rest. -/
theorem invariantHoldsAtReset : Obligations.InvariantHoldsAtReset := by
  unfold Obligations.InvariantHoldsAtReset
  exact reset_inv

/-- Settles O56: the reset values stand beside the fields of the state. -/
theorem resetValues : Obligations.ResetValues := by
  unfold Obligations.ResetValues
  refine ⟨rfl, rfl, rfl, rfl, rfl, rfl, fun k => ?_, rfl, rfl, rfl, rfl, rfl, rfl, rfl, rfl, rfl, rfl, rfl, rfl⟩
  have hrequired : State.reset.required.getLsbD k.val = true := by
    rw [show State.reset.required = BitVec.allOnes 32 from rfl, BitVec.getLsbD_allOnes]
    exact decide_eq_true k.isLt
  rw [reset_axis k]
  exact ⟨rfl, rfl, rfl, rfl, rfl, rfl, rfl, rfl, rfl, rfl, rfl, rfl, rfl, rfl, hrequired⟩

end Sys2Proof.Proofs
end

section
/-! PROOF. Setpoints (`10_state.md` R46; `20_memory.md` R82): a sample taken before a write does not see it, one taken by the
command afterwards does. Then the moves of the host and of the devices that no phase refuses. -/

namespace Sys2Proof.Machine

variable {s t u : State} {k : AxisIx}

/-! ### Samples -/

/-- Worker `k` has a command pending in mode IMP. -/
def CommandPending (s : State) (k : AxisIx) : Prop :=
  s.active k = true ∧ s.phase = .dispatch ∧ s.mode = .imp ∧ (s.axis k).wstep = .cmd

theorem sampleMove_of_pending (h : CommandPending s k) (r : Setpoint) :
    sampleMove s k r = s.modAxis k fun a => a.sample r := if_pos h

theorem sampleMove_of_not_pending (h : ¬ CommandPending s k) (r : Setpoint) : sampleMove s k r = s := if_neg h

/-- Moves one after another. -/
theorem runMoves_append {es fs : List Event} (h : runMoves es s = .next t) :
    runMoves (es ++ fs) s = runMoves fs t := by
  induction es generalizing s with
  | nil =>
    cases h
    rfl
  | cons e es ih =>
    simp only [runMoves, List.cons_append] at h ⊢
    split at h
    next => exact ih h
    all_goals cases h

/-- A setpoint is sampled ahead of the writes, unless the sampling is to see them. -/
def presample (seen : Bool) (r : Setpoint) (a : Axis) : Axis := if seen then a else a.sample r

theorem runMoves_presample (h : CommandPending s k) (seen : Bool) (r : Setpoint) :
    ∃ t, runMoves (if seen then [] else [.sample k r]) s = .next t ∧ CommandPending t k ∧
      t.axis k = presample seen r (s.axis k) := by
  cases seen with
  | true => exact ⟨s, rfl, h, rfl⟩
  | false =>
    have hk : (s.modAxis k fun a => a.sample r).axis k = (s.axis k).sample r := State.axis_modAxis_self s k _
    obtain ⟨hactive, hphase, hmode, hstep⟩ := h
    refine ⟨s.modAxis k fun a => a.sample r, ?_, ⟨hactive, hphase, hmode, ?_⟩, hk⟩
    · simp [runMoves, agentMove, sampleMove_of_pending ⟨hactive, hphase, hmode, hstep⟩ r]
    · rw [hk, Axis.sample_frame]
      exact hstep

/-- What the three samples leave on an axis that had none. -/
theorem presample_all (a : Axis) (h : a.smp = {}) (seeP seeV seeT : Bool) :
    presample seeT .tFf (presample seeV .vDes (presample seeP .pDes a)) =
      { a with smp :=
        { p := if seeP then none else some a.pDes
          v := if seeV then none else some a.vDes
          t := if seeT then none else some a.tFf } } := by
  cases seeP <;> cases seeV <;> cases seeT <;> simp [presample, Axis.sample, Axis.setpoints, h]
  exact h ▸ rfl

/-- The move `e` always completes, and writes axis `k` by `f`. -/
def WritesAxis (k : AxisIx) (e : Event) (f : Axis → Axis) : Prop :=
  ∀ s, ∃ t, agentMove e s = .next t ∧ t.axis k = f (s.axis k)

theorem writesAxis_of_modAxis {e : Event} {f : Axis → Axis}
    (h : ∀ s, agentMove e s = .next ((s.modAxis k f).answer (.ok .unit))) : WritesAxis k e f :=
  fun s => ⟨_, h s, State.axis_modAxis_self s k f⟩

theorem runMoves_three {e₁ e₂ e₃ : Event} {f₁ f₂ f₃ : Axis → Axis} (h₁ : WritesAxis k e₁ f₁) (h₂ : WritesAxis k e₂ f₂)
    (h₃ : WritesAxis k e₃ f₃) (s : State) :
    ∃ u, runMoves [e₁, e₂, e₃] s = .next u ∧ u.axis k = f₃ (f₂ (f₁ (s.axis k))) := by
  obtain ⟨t₁, hm₁, ha₁⟩ := h₁ s
  obtain ⟨t₂, hm₂, ha₂⟩ := h₂ t₁
  obtain ⟨t₃, hm₃, ha₃⟩ := h₃ t₂
  exact ⟨t₃, by simp [runMoves, hm₁, hm₂, hm₃], by rw [ha₃, ha₂, ha₁]⟩

/-- The three setpoint writes commute. -/
theorem runMoves_setpoint_writes {writes : List Event} {p v q : Rat}
    (h : writes.Perm [.write (.pDes k p), .write (.vDes k v), .write (.tFf k q)]) (s : State) :
    ∃ u, runMoves writes s = .next u ∧ u.axis k = { s.axis k with pDes := p, vDes := v, tFf := q } := by
  have hp : WritesAxis k (.write (.pDes k p)) fun a => { a with pDes := p } := writesAxis_of_modAxis fun _ => rfl
  have hv : WritesAxis k (.write (.vDes k v)) fun a => { a with vDes := v } := writesAxis_of_modAxis fun _ => rfl
  have ht : WritesAxis k (.write (.tFf k q)) fun a => { a with tFf := q } := writesAxis_of_modAxis fun _ => rfl
  have horder := List.mem_permutations'.2 h
  simp only [List.permutations', List.permutations'Aux, List.flatMap_cons, List.flatMap_nil, List.map_cons, List.map_nil,
    List.append_nil, List.cons_append, List.nil_append, List.mem_cons, List.not_mem_nil, or_false] at horder
  obtain rfl | rfl | rfl | rfl | rfl | rfl := horder
  · exact runMoves_three hp hv ht s
  · exact runMoves_three hv hp ht s
  · exact runMoves_three hv ht hp s
  · exact runMoves_three hp ht hv s
  · exact runMoves_three ht hp hv s
  · exact runMoves_three ht hv hp s

/-! ### Register reads -/

theorem agentMove_read {r : RegSel} {v : Value} (h : regValue r s = v) :
    agentMove (.read r) s = .next (s.answer (.ok v)) := by
  subst h
  rfl

/-- Reads of a list of registers, each with its value. -/
theorem agentMove_reads {l : List (RegSel × Value)} (h : ∀ x ∈ l, regValue x.1 s = x.2) (r : RegSel) (v : Value)
    (hx : (r, v) ∈ l) : agentMove (.read r) s = .next (s.answer (.ok v)) :=
  agentMove_read (h (r, v) hx)

theorem Axis.data_of_group {a : Axis} {p : BitVec 64} {v t : BitVec 16} (h : a.group = (some p, some v, some t)) :
    a.data = some (p, v, t) := by
  obtain ⟨hp, hv, ht⟩ : a.pos = some p ∧ a.vel = some v ∧ a.trq = some t := by simpa [Axis.group] using h
  simp [Axis.data, hp, hv, ht]

theorem Axis.data_eq_none {a : Axis} (h : a.pos = none ∨ a.vel = none ∨ a.trq = none) : a.data = none := by
  have hinvalid : ¬ a.valid = true := fun hv => by
    obtain ⟨hp, hv, ht⟩ := a.valid_iff.1 hv
    obtain h | h | h := h <;> simp_all
  simpa [Axis.valid] using hinvalid

end Sys2Proof.Machine

namespace Sys2Proof.Proofs

open Sys2Proof Sys2Proof.Machine

/-- Settles O51: the samples that are not to see the writes are taken ahead of them, and the command takes the others. -/
theorem setpointsAreSampledPerRegister : Obligations.SetpointsAreSampledPerRegister := by
  unfold Obligations.SetpointsAreSampledPerRegister
  refine ⟨fun s k r hactive hphase hmode hstep => ?sampled, fun s k r h => ?idle,
    fun s k p v t writes seeP seeV seeT hactive hphase hmode hstep hnone hwrites => ?concurrent⟩
  case sampled =>
    have hk : (s.modAxis k fun a => a.sample r).axis k = (s.axis k).sample r := State.axis_modAxis_self s k _
    refine ⟨s.modAxis k fun a => a.sample r,
      congrArg _ (sampleMove_of_pending ⟨hactive, hphase, hmode, hstep⟩ r), rfl, fun j hj => s.axis_modAxis_ne _ hj, ?_, ?_⟩
    all_goals rw [hk]
    · exact Axis.sample_frame _ r
    · cases r <;> rfl
  case idle => exact congrArg _ (sampleMove_of_not_pending h r)
  case concurrent =>
    obtain ⟨s1, hm1, hp1, ha1⟩ := runMoves_presample ⟨hactive, hphase, hmode, hstep⟩ seeP .pDes
    obtain ⟨s2, hm2, hp2, ha2⟩ := runMoves_presample hp1 seeV .vDes
    obtain ⟨s3, hm3, -, ha3⟩ := runMoves_presample hp2 seeT .tFf
    obtain ⟨u, hmu, hau⟩ := runMoves_setpoint_writes hwrites s3
    rw [ha3, ha2, ha1, presample_all _ hnone] at hau
    refine ⟨u, ?_, ?_⟩
    · rw [List.append_assoc, List.append_assoc, runMoves_append hm1, runMoves_append hm2, runMoves_append hm3, hmu]
    · rw [hau]
      exact ⟨rfl, by cases seeP <;> rfl, by cases seeV <;> rfl, by cases seeT <;> rfl⟩

/-- Settles O38: each move by its equation; a register read hands over `regValue`. -/
theorem anytimeHostAndDeviceMoves : Obligations.AnytimeHostAndDeviceMoves := by
  unfold Obligations.AnytimeHostAndDeviceMoves
  intro s k q bytes
  refine ⟨rfl, rfl, rfl, ?rxbuf, agentMove_reads ?values, fun p v t h => ?valid, fun h => ?invalid, fun h => ?ended,
    ⟨s.elapsedRead, rfl⟩, rfl⟩
  case rxbuf =>
    by_cases hlen : bytes.length ≤ 261
    · simp [agentMove, hostWrite, hlen]
    · simp [agentMove, hostWrite, hlen, Nat.lt_of_not_le hlen]
  case values =>
    simp only [List.forall_mem_cons]
    exact ⟨rfl, rfl, rfl, rfl, rfl, rfl, rfl, rfl, rfl, rfl, rfl, rfl, rfl, rfl, rfl, rfl, rfl, rfl, rfl, rfl, rfl, rfl, rfl,
      rfl, rfl, rfl, rfl, rfl, rfl, by simp⟩
  case valid => exact agentMove_read (congrArg Value.axisState (Axis.data_of_group h))
  case invalid => exact agentMove_read (congrArg Value.axisState (Axis.data_eq_none h))
  case ended => exact agentMove_read (congrArg Value.nat (if_pos h))

end Sys2Proof.Proofs
end

section
/-! PROOF. A worker on its own axis (`20_memory.md` R67, R78): the registers its moves and its samples write. -/

namespace Sys2Proof.Machine

variable {s t u : State} {k : AxisIx} {a b c : Axis}

/-- `b` is `a` but for the registers a worker writes: the channel, AxisState, the held angle, the step and the samples. -/
def WorkerWrites (a b : Axis) : Prop :=
  b = { a with
    rxq := b.rxq, txh := b.txh, codec := b.codec, wait := b.wait, pos := b.pos, vel := b.vel, trq := b.trq,
    held := b.held, wstep := b.wstep, smp := b.smp }

theorem WorkerWrites.trans (h₁ : WorkerWrites a b) (h₂ : WorkerWrites b c) : WorkerWrites a c := by
  unfold WorkerWrites
  conv_lhs => rw [h₂]
  rw [h₁]

theorem ChannelMoved.workerWrites (h : ChannelMoved k s t) : WorkerWrites (s.axis k) (t.axis k) := by
  unfold WorkerWrites
  rw [h.frame.2.2]

/-- One more register of the worker is written, in a state whose axis `k` is that of `u`. -/
theorem WorkerWrites.modAxis (h : WorkerWrites a (u.axis k)) {f : Axis → Axis} (hf : ∀ b, WorkerWrites b (f b)) :
    WorkerWrites a ((u.modAxis k f).axis k) := by
  rw [State.axis_modAxis_self]
  exact h.trans (hf _)

theorem MayReport.workerWrites (h : MayReport s t) (ha : WorkerWrites a (s.axis k)) : WorkerWrites a (t.axis k) := by
  rwa [h.axis k]

theorem WorkerEnd.workerWrites (h : WorkerEnd s k t) : WorkerWrites (s.axis k) (t.axis k) := by
  cases h with
  | waits => exact rfl
  | pending u hu => exact hu.workerWrites
  | angle u raw _ _ hu => exact hu.workerWrites.modAxis fun _ => rfl
  | refreshed u v g _ hu hv =>
    have hgroup : WorkerWrites (s.axis k) ((u.setGroup k g).axis k) := hu.workerWrites.modAxis fun _ => rfl
    exact (hv.workerWrites hgroup).modAxis fun _ => rfl
  | torque u v _ _ hu hv => exact (hv.workerWrites hu.workerWrites).modAxis fun _ => rfl
  | setpoints u v _ _ hu _ hv =>
    have hcleared : WorkerWrites (s.axis k) ((v.clearSamples k).axis k) :=
      (hv.workerWrites hu.workerWrites).modAxis fun _ => rfl
    exact hcleared.modAxis fun _ => rfl

/-- A sample of worker `k` writes the samples of axis `k` alone. -/
theorem sampleMove_frame (s : State) (k : AxisIx) (r : Setpoint) :
    (∀ j, j ≠ k → (sampleMove s k r).axis j = s.axis j) ∧
      (sampleMove s k r).axis k = { s.axis k with smp := ((sampleMove s k r).axis k).smp } ∧
      sampleMove s k r = { s with axes := (sampleMove s k r).axes } := by
  by_cases hpending : CommandPending s k
  · rw [sampleMove_of_pending hpending r]
    refine ⟨fun j hj => s.axis_modAxis_ne _ hj, ?_, rfl⟩
    rw [State.axis_modAxis_self]
    exact (s.axis k).sample_frame r
  · rw [sampleMove_of_not_pending hpending r]
    exact ⟨fun _ _ => rfl, rfl, rfl⟩

end Sys2Proof.Machine

namespace Sys2Proof.Proofs

open Sys2Proof.Machine

/-- Settles O52: each end of a worker's move touches one axis (`WorkerEnd.oneAxis`), and of it the worker's registers. -/
theorem workersAreIsolated : Obligations.WorkersAreIsolated := by
  unfold Obligations.WorkersAreIsolated
  intro s t k h
  have hend := workerMove_ends h
  have hone := hend.oneAxis
  exact ⟨hone.other, hone.rlog, hend.workerWrites, hone.eq, sampleMove_frame s k⟩

end Sys2Proof.Proofs
end

section
/-! PROOF. The configuration (`20_memory.md` R84; `60_exceptions.md` R309): an update of the host port or a move of an
agent leaves it, but for a configuration write, which the port refuses during a run. -/

namespace Sys2Proof.Machine

variable {s t u : State} {k : AxisIx}

/-- The control parameters and the configuration registers that belong to no axis. -/
def State.config (s : State) :
    Option Nat × Option Rat × Option Rat × Option Rat × Option Nat × Option Nat × Mode × BitVec 32 :=
  (s.nax, s.kp, s.kd, s.limit, s.period, s.tRead, s.mode, s.required)

/-- The configuration registers of an axis. -/
def Axis.config (a : Axis) : Option Byte × Option Nat × Option Nat := (a.axisId, a.chAddr, a.baud)

/-- `t` has the configuration of `s`. -/
structure SameConfig (s t : State) : Prop where
  regs : t.config = s.config
  axis : ∀ k, (t.axis k).config = (s.axis k).config

theorem sameConfig_refl (s : State) : SameConfig s s := ⟨rfl, fun _ => rfl⟩

theorem SameConfig.trans (h₁ : SameConfig s t) (h₂ : SameConfig t u) : SameConfig s u :=
  ⟨h₂.regs.trans h₁.regs, fun k => (h₂.axis k).trans (h₁.axis k)⟩

theorem SameConfig.modAxis (h : SameConfig s u) (k : AxisIx) {f : Axis → Axis} (hf : ∀ a, (f a).config = a.config) :
    SameConfig s (u.modAxis k f) :=
  h.trans ⟨rfl, fun j => by rw [State.axis_modAxis]; split <;> simp_all⟩

theorem SameConfig.modActive (h : SameConfig s u) {f : Axis → Axis} (hf : ∀ a, (f a).config = a.config) :
    SameConfig s (u.modActive f) :=
  h.trans ⟨rfl, fun j => by rw [State.axis_modActive]; split <;> simp [hf]⟩

/-- Other registers are written beside. -/
theorem SameConfig.beside (h : SameConfig s u) (hr : t.config = u.config) (ha : t.axes = u.axes) : SameConfig s t :=
  h.trans ⟨hr, fun k => by rw [State.axis_congr ha]⟩

theorem Inside.sameConfig (h : Inside s t) : SameConfig s t :=
  ⟨by rw [h.eq]; rfl, fun k => by rw [h.axis k]⟩

theorem ChannelsOnly.sameConfig (h : ChannelsOnly s t) : SameConfig s t :=
  ⟨by rw [h.1]; rfl, fun k => by rw [h.2 k]; rfl⟩

theorem ChannelMoved.sameConfig (h : ChannelMoved k s t) : SameConfig s t := h.frame.channels.sameConfig

theorem setTorques_sameConfig (s : State) (t0 t1 : Rat) : SameConfig s (s.setTorques t0 t1) :=
  SameConfig.modAxis ((sameConfig_refl s).modAxis 0 (f := fun a => { a with tq := some t0 }) fun _ => rfl) 1 fun _ => rfl

theorem HostUpdate.sameConfig (h : HostUpdate s t) : SameConfig s t := by
  cases h with
  | inside h => exact h.sameConfig
  | channel k _ h => exact h.frame.channels.sameConfig
  | group k g => exact (sameConfig_refl s).modAxis k fun _ => rfl
  | torques t0 t1 => exact setTorques_sameConfig s t0 t1
  | run => exact ⟨rfl, fun _ => rfl⟩

theorem HostUpdates.sameConfig (h : HostUpdates s t) : SameConfig s t := by
  induction h with
  | refl => exact sameConfig_refl s
  | tail _ hu ih => exact ih.trans hu.sameConfig

theorem WorkerEnd.sameConfig (h : WorkerEnd s k t) : SameConfig s t where
  regs := by rw [h.oneAxis.eq]; rfl
  axis := fun j => by
    by_cases hj : j = k
    · subst hj
      rw [h.workerWrites]
      rfl
    · rw [h.oneAxis.other j hj]

theorem StartupEnd.sameConfig (h : StartupEnd s t) : SameConfig s t := by
  cases h with
  | running =>
    exact ((sameConfig_refl s).modActive (f := fun a => { a with life := .running }) fun _ => rfl).beside rfl rfl
  | pending k u _ hu => exact hu.sameConfig
  | failed k u site e _ hu => exact hu.sameConfig.beside rfl rfl
  | enabled k u _ hu =>
    exact (hu.sameConfig.modAxis k (f := fun a => { a with life := .enabled }) fun _ => rfl).beside rfl rfl
  | zeroed k u _ hu =>
    exact (hu.sameConfig.modAxis k (f := fun a => { a with life := .zeroed }) fun _ => rfl).beside rfl rfl

theorem ShutdownEnd.sameConfig (h : ShutdownEnd s t) : SameConfig s t := by
  cases h with
  | halted => exact ⟨rfl, fun _ => rfl⟩
  | pending k u _ hu => exact hu.sameConfig
  | failed k u e _ hu => exact hu.sameConfig.beside rfl rfl
  | disabled k u _ hu =>
    exact (hu.sameConfig.modAxis k (f := fun a => { a with life := .disabled }) fun _ => rfl).beside rfl rfl

theorem SameConfig.enterDispatch (h : SameConfig s u) : SameConfig s u.enterDispatch :=
  (h.modActive (f := fun a => { a with wstep := .cmd }) fun _ => rfl).beside rfl rfl

theorem tickStartMove_sameConfig (s : State) : SameConfig s (tickStartMove s) :=
  ((sameConfig_refl s).modActive (f := fun a => { a with tq := none, wstep := .t1 }) fun _ => rfl).beside rfl rfl

theorem checkMove_sameConfig (s : State) : SameConfig s (checkMove s) := by
  unfold checkMove
  split
  all_goals exact ⟨rfl, fun _ => rfl⟩

theorem computeMove_sameConfig (h : computeMove s = .next t) : SameConfig s t := by
  unfold computeMove at h
  split at h
  next =>
    cases h
    exact (sameConfig_refl s).enterDispatch
  next =>
    split at h
    next => cases h
    next =>
      cases h
      exact ⟨rfl, fun _ => rfl⟩
    next t0 t1 _ =>
      cases h
      exact (setTorques_sameConfig s t0 t1).enterDispatch

theorem timingMove_sameConfig (h : timingMove s = .next t) : SameConfig s t := by
  unfold timingMove at h
  split at h
  next => cases h
  next =>
    dsimp only at h
    split at h
    all_goals
      cases h
      exact ⟨rfl, fun _ => rfl⟩

theorem sleepMove_sameConfig (h : sleepMove s = .next t) : SameConfig s t := by
  unfold sleepMove at h
  split at h
  next => cases h
  next =>
    split at h
    all_goals
      cases h
      exact ⟨rfl, fun _ => rfl⟩

theorem betweenMove_sameConfig (s : State) : SameConfig s (betweenMove s) := by
  unfold betweenMove
  split
  all_goals exact ⟨rfl, fun _ => rfl⟩

theorem sequencerMove_sameConfig (h : sequencerMove s = .next t) : SameConfig s t := by
  unfold sequencerMove at h
  cases hp : s.phase <;> simp only [hp] at h
  case startup => exact (startupMove_ends h).sameConfig
  case shutdown => exact (shutdownMove_ends h).sameConfig
  case compute => exact computeMove_sameConfig h
  case timing => exact timingMove_sameConfig h
  case sleep => exact sleepMove_sameConfig h
  case tickStart =>
    cases h
    exact tickStartMove_sameConfig s
  case check =>
    cases h
    exact checkMove_sameConfig s
  case between =>
    cases h
    exact betweenMove_sameConfig s
  case refresh | dispatch =>
    split at h
    all_goals
      cases h
      exact ⟨rfl, fun _ => rfl⟩
  case idle | halted =>
    cases h
    exact sameConfig_refl s

/-- During a run a configuration write is refused (R309). -/
theorem configWrite_busy (hb : s.busy = true) (legal : Bool) (w : State) :
    configWrite s legal w = s.answer (.refused .busy) := if_pos hb

theorem hostWrite_sameConfig (hb : s.busy = true) (w : RegWrite) : SameConfig s (hostWrite w s) := by
  cases w with
  | nax | axisId | chAddr | baud | kp | kd | limit | period | tRead | mode | required =>
    simp only [hostWrite, configWrite_busy hb]
    exact (inside_answer s _).sameConfig
  | pDes k v => exact ((sameConfig_refl s).modAxis k (f := fun a => { a with pDes := v }) fun _ => rfl).beside rfl rfl
  | vDes k v => exact ((sameConfig_refl s).modAxis k (f := fun a => { a with vDes := v }) fun _ => rfl).beside rfl rfl
  | tFf k v => exact ((sameConfig_refl s).modAxis k (f := fun a => { a with tFf := v }) fun _ => rfl).beside rfl rfl
  | rxbuf bytes => exact (hostWrite_rxbuf_inside bytes s).sameConfig

theorem sampleMove_sameConfig (s : State) (k : AxisIx) (r : Setpoint) : SameConfig s (sampleMove s k r) := by
  obtain ⟨hother, hk, heq⟩ := sampleMove_frame s k r
  refine ⟨by rw [heq]; rfl, fun j => ?_⟩
  by_cases hj : j = k
  · subst hj
    rw [hk]
    rfl
  · rw [hother j hj]

theorem agentMove_sameConfig {e : Event} (hb : s.busy = true) (h : agentMove e s = .next t) : SameConfig s t := by
  cases e with
  | worker k => exact (workerMove_ends h).sameConfig
  | sequencer => exact sequencerMove_sameConfig h
  | request r =>
    cases h
    exact (inside_place s r).sameConfig
  | write w =>
    cases h
    exact hostWrite_sameConfig hb w
  | read r =>
    cases h
    exact (inside_answer s _).sameConfig
  | device k bytes =>
    cases h
    exact (sameConfig_refl s).modAxis k fun _ => rfl
  | time dt =>
    cases h
    exact ⟨rfl, fun _ => rfl⟩
  | sample k r =>
    cases h
    exact sampleMove_sameConfig s k r

end Sys2Proof.Machine

namespace Sys2Proof.Proofs

open Sys2Proof.Machine

/-- Settles O39: instructions and agents keep the configuration; the move drawn finds the block as busy as the step did, so
a configuration write among the moves is refused. -/
theorem configurationIsImmutableInARun : Obligations.ConfigurationIsImmutableInARun := by
  unfold Obligations.ConfigurationIsImmutableInARun
  intro s t h hb
  have hsame : SameConfig s t := by
    obtain ⟨i, hi⟩ | rfl | hm := step_cases h
    · exact (inside_taken s).sameConfig.trans (exec_updates hi).sameConfig
    · exact ((inside_taken s).trans (inside_answer _ _)).sameConfig
    · have hdrawn := inside_drawEvent s
      exact hdrawn.sameConfig.trans (agentMove_sameConfig (hdrawn.busy.trans hb) hm)
  obtain ⟨hregs, haxis⟩ := hsame
  simp only [State.config, Axis.config, Prod.mk.injEq] at hregs haxis
  obtain ⟨hnax, hkp, hkd, hlimit, hperiod, htRead, hmode, hrequired⟩ := hregs
  exact ⟨hnax, hkp, hkd, hlimit, hperiod, htRead, hmode, hrequired, haxis⟩

end Sys2Proof.Proofs
end

section
/-! PROOF. The four ends of a read by an agent (`20_memory.md` R65; `46_session.md` R233), each an equation about
`agentRead`. -/

namespace Sys2Proof.Machine

variable {s : State} {k : AxisIx} {n since T : Nat}

/-- The state in which a read of an agent on channel `k` ends: the draw is taken and the call time forgotten. -/
def State.readEnd (s : State) (k : AxisIx) : State := s.drawLink.2.modAxis k fun a => { a with wait := none }

@[simp] theorem State.readEnd_axis_self (s : State) (k : AxisIx) :
    (s.readEnd k).axis k = { s.axis k with wait := none } := by
  rw [State.readEnd, State.axis_modAxis_self, State.drawLink_axis]

/-- The channel fails. -/
theorem agentRead_fails (hf : s.drawLink.1.readFails = true) :
    agentRead s k n since = (some (.err .transport), s.readEnd k) := by
  simp [agentRead, State.readEnd, hf]

/-- Enough bytes have arrived. -/
theorem agentRead_enough (hf : s.drawLink.1.readFails = false) (hn : n ≤ (s.axis k).rxq.length) :
    agentRead s k n since = (some (collect (s.readEnd k) k n).1, (collect (s.readEnd k) k n).2) := by
  simp [agentRead, State.readEnd, hf, hn]

/-- Too few bytes have arrived in `T_READ`. -/
theorem agentRead_late (hT : s.tRead = some T) (hf : s.drawLink.1.readFails = false) (hn : (s.axis k).rxq.length < n)
    (ht : since + T ≤ s.now) :
    agentRead s k n since = (some (collect (s.readEnd k) k n).1, (collect (s.readEnd k) k n).2) := by
  have hT' : s.drawLink.2.tRead = some T := (drawLink_channelOnly s k).channels.tRead.trans hT
  simp [agentRead, State.readEnd, hf, Nat.not_le.2 hn, hT', ht]

/-- Too few bytes have arrived so far: the read goes on. -/
theorem agentRead_waits (hT : s.tRead = some T) (hf : s.drawLink.1.readFails = false) (hn : (s.axis k).rxq.length < n)
    (ht : s.now < since + T) : agentRead s k n since = (none, s.drawLink.2) := by
  have hT' : s.drawLink.2.tRead = some T := (drawLink_channelOnly s k).channels.tRead.trans hT
  simp [agentRead, hf, Nat.not_le.2 hn, hT', Nat.not_le.2 ht]

/-- A short reply is a time-out (R132). -/
theorem validateFrame_short {raw : List Byte} (h : raw.length < n) : validateFrame raw n = .error .timeout :=
  if_pos h.ne

/-- What is collected when the queue is too short: the whole queue, for a time-out. -/
theorem collect_short (h : (s.axis k).rxq.length < n) :
    (collect s k n).1 = .err .timeout ∧ ((collect s k n).2.axis k).rxq = [] := by
  obtain ⟨hreply, -, -, hk⟩ := collect_spec s k n
  have hv : validateFrame ((s.axis k).rxq.take n) n = .error .timeout :=
    validateFrame_short ((List.length_take_le' _ _).trans_lt h)
  constructor
  · rw [hreply, hv]
  · rw [hk]
    exact List.drop_eq_nil_of_le h.le

/-- What is collected at the end of a read leaves no read in progress. -/
theorem collect_readEnd_wait (s : State) (k : AxisIx) (n : Nat) :
    ((collect (s.readEnd k) k n).2.axis k).wait = none := by
  obtain ⟨-, -, -, hk⟩ := collect_spec (s.readEnd k) k n
  rw [hk, State.readEnd_axis_self]

/-- A move of time: no more than `dt` passes, and no read in progress comes to last longer than `T_READ`. -/
theorem agentMove_time (hT : s.tRead = some T) (dt : Nat) :
    ∃ u, agentMove (.time dt) s = .next u ∧ u = { s with now := u.now } ∧ s.now ≤ u.now ∧ u.now ≤ s.now + dt ∧
      (∀ j called, (s.axis j).wait = some called → s.now ≤ called + T → u.now ≤ called + T) ∧
      ((∀ j called, (s.axis j).wait = some called → s.now + dt ≤ called + T) → u.now = s.now + dt) := by
  obtain ⟨hframe, hle, hdt, hreads, hfull⟩ := s.passTime_spec dt
  refine ⟨_, rfl, hframe, hle, hdt, hreads T hT, fun h => hfull fun T' hT' => ?_⟩
  obtain rfl : T = T' := Option.some.inj (hT.symm.trans hT')
  exact h

end Sys2Proof.Machine

namespace Sys2Proof.Proofs

open Sys2Proof.Machine

/-- Settles O47: each end by its equation and by what `collect` takes; the frame by `agentRead_spec`. -/
theorem agentReadsEndByDataOrTime : Obligations.AgentReadsEndByDataOrTime := by
  unfold Obligations.AgentReadsEndByDataOrTime
  intro s k n since T hT
  obtain ⟨hframe, hnow, -⟩ := agentRead_spec s k n since
  refine ⟨fun hf => ?fails, fun hf hn => ?enough, fun hf hn ht => ?late, fun hf hn ht => ?waits, hframe, hnow,
    agentMove_time hT⟩
  case fails =>
    rw [agentRead_fails hf]
    exact ⟨rfl, s.readEnd_axis_self k⟩
  case enough =>
    rw [agentRead_enough hf hn]
    obtain ⟨hreply, -, -, hk⟩ := collect_spec (s.readEnd k) k n
    rw [State.readEnd_axis_self] at hreply hk
    exact ⟨congrArg some hreply, by rw [hk], by rw [hk]⟩
  case late =>
    rw [agentRead_late hT hf hn ht]
    obtain ⟨hreply, hrxq⟩ := collect_short (s := s.readEnd k) (k := k) (n := n) (by rwa [State.readEnd_axis_self])
    exact ⟨congrArg some hreply, hrxq, collect_readEnd_wait s k n⟩
  case waits =>
    rw [agentRead_waits hT hf hn ht]
    exact ⟨rfl, s.drawLink_axis k⟩

end Sys2Proof.Proofs
end

section
/-! PROOF. The operations of the host that use a channel stay on its axis (`20_memory.md` R66, R67; `10_state.md` R49). -/

namespace Sys2Proof.Machine

variable {s t u : State} {k : AxisIx}

/-- `t` is `s` but for channel `k` and AxisState of axis `k`, bytes arrived on the other channels, the host's two buffers,
the report log, the time, the draws and the result: what the operations that use a channel have in common. -/
structure StaysOnAxis (k : AxisIx) (s t : State) : Prop where
  eq : t = { s with
    axes := t.axes, host := t.host, impbuf := t.impbuf, rlog := t.rlog, now := t.now, links := t.links, drawn := t.drawn
    port := { s.port with result := t.port.result } }
  other : ∀ j, j ≠ k → Receives (s.axis j) (t.axis j)
  axis : t.axis k = { s.axis k with
    rxq := (t.axis k).rxq, txh := (t.axis k).txh, codec := (t.axis k).codec,
    pos := (t.axis k).pos, vel := (t.axis k).vel, trq := (t.axis k).trq }
  grows : Grows s t

theorem StaysOnAxis.trans (h₁ : StaysOnAxis k s t) (h₂ : StaysOnAxis k t u) : StaysOnAxis k s u where
  eq := by
    conv_lhs => rw [h₂.eq]
    rw [h₁.eq]
  other := fun j hj => (h₁.other j hj).trans (h₂.other j hj)
  axis := by
    conv_lhs => rw [h₂.axis]
    rw [h₁.axis]
  grows := h₁.grows.trans h₂.grows

/-- No axis is written. -/
theorem staysOnAxis_of_axes (k : AxisIx) (ha : t.axes = s.axes) (hr : s.rlog <+: t.rlog) (hn : t.now = s.now)
    (heq : t = { s with
      axes := t.axes, host := t.host, impbuf := t.impbuf, rlog := t.rlog, now := t.now, links := t.links, drawn := t.drawn
      port := { s.port with result := t.port.result } }) : StaysOnAxis k s t where
  eq := heq
  other := fun j _ => by
    rw [State.axis_congr ha]
    exact .refl _
  axis := by rw [State.axis_congr ha]
  grows := ⟨hr, fun j => by rw [State.axis_congr ha], hn.ge⟩

theorem staysOnAxis_impbuf (s : State) (k : AxisIx) (bytes : List Byte) : StaysOnAxis k s { s with impbuf := bytes } :=
  staysOnAxis_of_axes k rfl List.prefix_rfl rfl rfl

theorem staysOnAxis_encodeWire (s : State) (k : AxisIx) (c : Byte) (pl : Except RefuseReason (List Byte)) :
    StaysOnAxis k s (encodeWire s k c pl) := by
  obtain ⟨r, h⟩ | ⟨a, p, f, -, -, -, h⟩ := encodeWire_spec s k c pl
  all_goals
    rw [h]
    exact staysOnAxis_of_axes k rfl List.prefix_rfl rfl rfl

/-! ### The host's buffers are left -/

/-- As `StaysOnAxis`, with the host's two buffers left. -/
structure KeepsBuffers (k : AxisIx) (s t : State) : Prop extends StaysOnAxis k s t where
  host : t.host = s.host
  impbuf : t.impbuf = s.impbuf

theorem KeepsBuffers.trans (h₁ : KeepsBuffers k s t) (h₂ : KeepsBuffers k t u) : KeepsBuffers k s u :=
  ⟨h₁.toStaysOnAxis.trans h₂.toStaysOnAxis, h₂.host.trans h₁.host, h₂.impbuf.trans h₁.impbuf⟩

theorem keepsBuffers_answer (s : State) (k : AxisIx) (r : Result) : KeepsBuffers k s (s.answer r) :=
  ⟨staysOnAxis_of_axes k rfl List.prefix_rfl rfl rfl, rfl, rfl⟩

theorem KeepsBuffers.answer (h : KeepsBuffers k s t) (r : Result) : KeepsBuffers k s (t.answer r) :=
  h.trans (keepsBuffers_answer t k r)

theorem keepsBuffers_report (s : State) (k : AxisIx) (r : Report) : KeepsBuffers k s (s.report r) :=
  ⟨staysOnAxis_of_axes k rfl (List.prefix_append _ _) rfl rfl, rfl, rfl⟩

theorem keepsBuffers_setGroup (s : State) (k : AxisIx) (g : Option (BitVec 64 × BitVec 16 × BitVec 16)) :
    KeepsBuffers k s (s.setGroup k g) := by
  obtain ⟨hk, -, hother, -⟩ := s.setGroup_spec k g
  exact
    { eq := rfl
      other := fun j hj => by
        rw [hother j hj]
        exact .refl _
      axis := by rw [hk]
      grows := (grows_refl s).modAxis k fun _ => rfl
      host := rfl
      impbuf := rfl }

theorem keepsBuffers_refreshFail (s : State) (k : AxisIx) (site : Site) (e : ErrKind) :
    KeepsBuffers k s (refreshFail s k site e) :=
  (keepsBuffers_setGroup s k none).trans (keepsBuffers_report _ k _)

theorem HostMoved.keepsBuffers (h : HostMoved k s t) : KeepsBuffers k s t where
  eq := by
    conv_lhs => rw [h.frame.1]
    rw [h.frame.1]
  other := fun _ => h.frame.other
  axis := by
    conv_lhs => rw [h.frame.2.2, h.wait]
    rw [h.frame.2.2]
  grows := h.grows
  host := h.frame.channels.host
  impbuf := h.frame.channels.impbuf

/-! ### The operations -/

/-- A transaction of the host on channel `k`, and a record of its error or none. -/
def Transacted (k : AxisIx) (s t : State) : Prop := ∃ u, HostMoved k s u ∧ MayReport u t

theorem transacted_hostTransact (s : State) (k : AxisIx) (c : Byte) (p : List Byte) (n : Nat) :
    Transacted k s (hostTransact s k c p n).2 := ⟨_, hostTransact_moved s k c p n, .inl rfl⟩

theorem transacted_hostFireForget (s : State) (k : AxisIx) (c : Byte) (p : List Byte) (site : Site) :
    Transacted k s (hostFireForget s k c p site).2 := by
  obtain ⟨t, hf, hn, hw, htx, ⟨pre, hpre⟩, hend⟩ := hostFireForget_spec s k c p site
  exact ⟨t, ⟨hf, hn, hw, htx, hpre ▸ List.prefix_append _ _⟩, hend.imp id fun ⟨_, _, h⟩ => ⟨_, h⟩⟩

theorem Transacted.keepsBuffers (h : Transacted k s t) : KeepsBuffers k s t := by
  obtain ⟨u, hu, rfl | ⟨r, rfl⟩⟩ := h
  · exact hu.keepsBuffers
  · exact hu.keepsBuffers.trans (keepsBuffers_report u k r)

theorem Transacted.group (h : Transacted k s t) : (t.axis k).group = (s.axis k).group := by
  obtain ⟨u, hu, hr⟩ := h
  rw [hr.axis k, hu.frame.channels.axis_group k]

theorem execTransact_next (s : State) (k : AxisIx) (c : Byte) (p : List Byte) (n : Nat) :
    ∃ u, execTransact k c p n s = .next u ∧ KeepsBuffers k s u ∧ (u.axis k).group = (s.axis k).group := by
  unfold execTransact
  split
  next => exact ⟨_, rfl, keepsBuffers_answer s k _, rfl⟩
  next =>
    have h := transacted_hostTransact s k c p n
    exact ⟨_, rfl, h.keepsBuffers.answer _, h.group⟩

theorem execFireforget_next (s : State) (k : AxisIx) (c : Byte) (p : List Byte) :
    ∃ u, execFireforget k c p s = .next u ∧ KeepsBuffers k s u ∧ (u.axis k).group = (s.axis k).group := by
  unfold execFireforget
  split
  next => exact ⟨_, rfl, keepsBuffers_answer s k _, rfl⟩
  next =>
    have h := transacted_hostFireForget s k c p (Config.hostSite s.rlog.length)
    split
    all_goals
      next hx =>
        rw [hx] at h
        exact ⟨_, rfl, h.keepsBuffers.answer _, h.group⟩

/-- IMPEDANCE writes the host's buffers, and AxisState as little as FIREFORGET does. -/
theorem execImpedance_next (s : State) (k : AxisIx) (p v kp kd tq : Rat) :
    ∃ u, execImpedance k p v kp kd tq s = .next u ∧ StaysOnAxis k s u ∧ (u.axis k).group = (s.axis k).group := by
  unfold execImpedance
  split
  next => exact ⟨_, rfl, (keepsBuffers_answer s k _).toStaysOnAxis, rfl⟩
  next =>
    have h := transacted_hostFireForget s k 0xA8 (impPayload p v kp kd tq) (Config.hostSite s.rlog.length)
    dsimp only
    split
    next hx =>
      rw [hx] at h
      exact ⟨_, rfl, (h.keepsBuffers.answer _).toStaysOnAxis, h.group⟩
    next s1 hx =>
      rw [hx] at h
      refine ⟨_, rfl, (h.keepsBuffers.toStaysOnAxis.trans (staysOnAxis_impbuf s1 k _)).trans
        (staysOnAxis_encodeWire _ k _ _), ?_⟩
      rw [(inside_encodeWire _ k _ _).axis k]
      exact h.group

/-- REFRESH: one transaction or two, and one group update at most (R240, R241). -/
theorem hostRefresh_keepsBuffers (s : State) (k : AxisIx) : KeepsBuffers k s (hostRefresh s k).2 := by
  have h1 := (transacted_hostTransact s k 0x92 [] 14).keepsBuffers
  unfold hostRefresh
  split
  next hx =>
    rw [hx] at h1
    exact h1
  next hx =>
    rw [hx] at h1
    exact h1.trans (keepsBuffers_refreshFail _ k _ _)
  next p1 s1 hx =>
    rw [hx] at h1
    split
    next => exact h1
    next raw _ =>
      have h2 := h1.trans (transacted_hostTransact s1 k 0x9C [] 13).keepsBuffers
      split
      next hy =>
        rw [hy] at h2
        exact h2
      next hy =>
        rw [hy] at h2
        exact h2.trans (keepsBuffers_refreshFail _ k _ _)
      next p2 s2 hy =>
        rw [hy] at h2
        split
        next => exact h2
        next r _ => exact h2.trans (keepsBuffers_setGroup s2 k _)

theorem execRefresh_next (s : State) (k : AxisIx) :
    ∃ u, execRefresh k s = .next u ∧ KeepsBuffers k s u := by
  unfold execRefresh
  split
  next => exact ⟨_, rfl, keepsBuffers_answer s k _⟩
  next =>
    have h := hostRefresh_keepsBuffers s k
    split
    all_goals
      next hx =>
        rw [hx] at h
        exact ⟨_, rfl, h.answer _⟩

end Sys2Proof.Machine

namespace Sys2Proof.Proofs

open Sys2Proof.Machine

/-- Settles O33: TRANSACT and FIREFORGET leave AxisState and the buffers, REFRESH the buffers, IMPEDANCE AxisState. -/
theorem channelOperationsStayOnTheirAxis : Obligations.ChannelOperationsStayOnTheirAxis := by
  unfold Obligations.ChannelOperationsStayOnTheirAxis
  intro k c p n q₀ q₁ q₂ q₃ q₄ s i hi
  obtain ⟨u, hexec, hstays, hgroup, hbuffers⟩ : ∃ u, exec i s = .next u ∧ StaysOnAxis k s u ∧
      (i ≠ .refresh k → (u.axis k).group = (s.axis k).group) ∧
      (i ≠ .impedance k q₀ q₁ q₂ q₃ q₄ → u.host = s.host ∧ u.impbuf = s.impbuf) := by
    simp only [List.mem_cons, List.not_mem_nil, or_false] at hi
    obtain rfl | rfl | rfl | rfl := hi
    · obtain ⟨u, hexec, hkeeps, hgroup⟩ := execTransact_next s k c p n
      exact ⟨u, hexec, hkeeps.toStaysOnAxis, fun _ => hgroup, fun _ => ⟨hkeeps.host, hkeeps.impbuf⟩⟩
    · obtain ⟨u, hexec, hkeeps, hgroup⟩ := execFireforget_next s k c p
      exact ⟨u, hexec, hkeeps.toStaysOnAxis, fun _ => hgroup, fun _ => ⟨hkeeps.host, hkeeps.impbuf⟩⟩
    · obtain ⟨u, hexec, hkeeps⟩ := execRefresh_next s k
      exact ⟨u, hexec, hkeeps.toStaysOnAxis, fun h => absurd rfl h, fun _ => ⟨hkeeps.host, hkeeps.impbuf⟩⟩
    · obtain ⟨u, hexec, hstays, hgroup⟩ := execImpedance_next s k q₀ q₁ q₂ q₃ q₄
      exact ⟨u, hexec, hstays, fun _ => hgroup, fun h => absurd rfl h⟩
  exact ⟨u, hexec, hstays.other, hstays.axis, hgroup, hbuffers, hstays.grows.txh k, hstays.grows.rlog, hstays.grows.now,
    hstays.eq⟩

end Sys2Proof.Proofs
end

section
/-! PROOF. Scaled integers (`30_encoding.md` R99, R100): `scaleIntBy` in range is the two's complement of the rounded value,
little-endian; a rounding never crosses an integer, so that a clamped torque is in range. And the lengths of the payloads. -/

namespace Sys2Proof.Machine

variable {r : ScaleRound} {x s q : Rat} {lo hi z : Int} {n : Nat} {pl : List Byte}

/-! ### Rounding and integers -/

/-- Each rounding is less than one away from its argument. -/
theorem abs_toIntBy_sub_lt (r : ScaleRound) (q : Rat) : |(toIntBy r q : Rat) - q| < 1 := by
  have hfloor : ∀ x : Rat, |(floorQ x : Rat) - x| < 1 := fun x => by
    have hle := Proofs.floorQ_le x
    have hlt := Proofs.lt_floorQ_add_one x
    rw [abs_lt]
    constructor <;> linarith
  cases r with
  | trunc =>
    change |(truncQ q : Rat) - q| < 1
    obtain hq | hq := le_total 0 q
    · rw [Proofs.truncQ_of_nonneg hq]
      exact hfloor q
    · have hneg := hfloor (-q)
      rw [Proofs.truncQ_of_nonpos hq, ← abs_neg]
      push_cast
      rwa [show -(-(floorQ (-q) : Rat) - q) = floorQ (-q) - -q by ring]
  | floor => exact hfloor q
  | nearestEven => exact (Proofs.abs_nearestEvenQ_sub_le q).trans_lt (by norm_num)
  | nearestUp => exact (Proofs.abs_nearestUpQ_sub_le q).trans_lt (by norm_num)

/-- An integer at or below the argument is at or below its rounding. -/
theorem le_toIntBy (h : (z : Rat) ≤ q) : z ≤ toIntBy r q := by
  have hnear := (abs_lt.1 (abs_toIntBy_sub_lt r q)).1
  have hlt : (z : Rat) < toIntBy r q + 1 := by linarith
  exact Int.lt_add_one_iff.1 (by exact_mod_cast hlt)

theorem toIntBy_le (h : q ≤ (z : Rat)) : toIntBy r q ≤ z := by
  have hnear := (abs_lt.1 (abs_toIntBy_sub_lt r q)).2
  have hlt : (toIntBy r q : Rat) < z + 1 := by linarith
  exact Int.lt_add_one_iff.1 (by exact_mod_cast hlt)

theorem toIntBy_intCast (r : ScaleRound) (z : Int) : toIntBy r z = z :=
  le_antisymm (toIntBy_le le_rfl) (le_toIntBy le_rfl)

theorem clampQ_bounds (h : lo ≤ hi) (q : Rat) : (lo : Rat) ≤ clampQ q lo hi ∧ clampQ q lo hi ≤ (hi : Rat) := by
  have hlohi : (lo : Rat) ≤ hi := by exact_mod_cast h
  unfold clampQ
  split
  next => exact ⟨le_rfl, hlohi⟩
  next hlo =>
    split
    next => exact ⟨hlohi, le_rfl⟩
    next hhi => exact ⟨not_lt.1 hlo, not_lt.1 hhi⟩

theorem clampQ_of_le {lo hi : Rat} (h : q ≤ lo) (hlohi : lo ≤ hi) : clampQ q lo hi = lo := by
  unfold clampQ
  split
  next => rfl
  next hlo =>
    obtain rfl : q = lo := le_antisymm h (not_lt.1 hlo)
    exact if_neg (not_lt.2 hlohi)

theorem clampQ_of_ge {lo hi : Rat} (h : hi ≤ q) (hlohi : lo ≤ hi) : clampQ q lo hi = hi := by
  unfold clampQ
  rw [if_neg (not_lt.2 (hlohi.trans h))]
  split
  next => rfl
  next hhi => exact le_antisymm (not_lt.1 hhi) h

/-! ### Two's complement, little-endian -/

theorem leNat_leInt (n : Nat) (z : Int) : (leNat (leInt n z) : Int) = z % 2 ^ (8 * n) := by
  have hpow : (256 : Nat) ^ n = 2 ^ (8 * n) := (pow_mul 2 8 n).symm
  have hpos : (0 : Int) < 2 ^ (8 * n) := by positivity
  have hmod := Int.emod_nonneg z hpos.ne'
  rw [leInt, leNat_leBytes, toUnsigned, hpow]
  push_cast
  rw [Int.toNat_of_nonneg hmod, Int.emod_emod]

/-- The bytes of an integer are those of its word. -/
theorem ofNat_leNat_leInt (n : Nat) (z : Int) : BitVec.ofNat (8 * n) (leNat (leInt n z)) = BitVec.ofInt (8 * n) z := by
  rw [← BitVec.ofInt_natCast, leNat_leInt]
  apply BitVec.eq_of_toInt_eq
  rw [BitVec.toInt_ofInt, BitVec.toInt_ofInt]
  exact_mod_cast Int.emod_bmod z (2 ^ (8 * n))

theorem toInt_leInt (hn : 0 < n) (hlo : -2 ^ (8 * n - 1) ≤ z) (hhi : z < 2 ^ (8 * n - 1)) :
    (BitVec.ofNat (8 * n) (leNat (leInt n z))).toInt = z := by
  rw [ofNat_leNat_leInt]
  exact BitVec.toInt_ofInt_eq_self (by omega) hlo hhi

/-! ### Scaled integers -/

theorem scaleIntBy_ok_iff :
    scaleIntBy r x s lo hi n = .ok pl ↔
      (lo ≤ toIntBy r (x * s) ∧ toIntBy r (x * s) ≤ hi) ∧ leInt n (toIntBy r (x * s)) = pl := by
  unfold scaleIntBy
  dsimp only
  split <;> simp <;> omega

theorem scaleIntBy_error (h : ¬(lo ≤ toIntBy r (x * s) ∧ toIntBy r (x * s) ≤ hi)) :
    scaleIntBy r x s lo hi n = .error .encodeRange :=
  if_pos (by omega)

theorem scaleIntBy_length (h : scaleIntBy r x s lo hi n = .ok pl) : pl.length = n := by
  obtain ⟨-, rfl⟩ := scaleIntBy_ok_iff.1 h
  exact leInt_length n _

/-- A signed type of `n` bytes: the payload is the word of the rounded value, or there is none. -/
theorem scaleIntBy_signed (hn : 0 < n) (hlo : -2 ^ (8 * n - 1) ≤ lo) (hhi : hi < 2 ^ (8 * n - 1)) :
    if lo ≤ toIntBy r (x * s) ∧ toIntBy r (x * s) ≤ hi then
      ∃ pl, scaleIntBy r x s lo hi n = .ok pl ∧ pl.length = n ∧
        (BitVec.ofNat (8 * n) (leNat pl)).toInt = toIntBy r (x * s)
    else scaleIntBy r x s lo hi n = .error .encodeRange := by
  split
  next hz =>
    exact ⟨_, scaleIntBy_ok_iff.2 ⟨hz, rfl⟩, leInt_length _ _, toInt_leInt hn (hlo.trans hz.1) (hz.2.trans_lt hhi)⟩
  next hz => exact scaleIntBy_error hz

/-- An unsigned type of `n` bytes. -/
theorem scaleIntBy_unsigned (hhi : hi < 2 ^ (8 * n)) :
    if 0 ≤ toIntBy r (x * s) ∧ toIntBy r (x * s) ≤ hi then
      ∃ pl, scaleIntBy r x s 0 hi n = .ok pl ∧ pl.length = n ∧ (leNat pl : Int) = toIntBy r (x * s)
    else scaleIntBy r x s 0 hi n = .error .encodeRange := by
  split
  next hz =>
    refine ⟨_, scaleIntBy_ok_iff.2 ⟨hz, rfl⟩, leInt_length _ _, ?_⟩
    rw [leNat_leInt, Int.emod_eq_of_lt hz.1 (hz.2.trans_lt hhi)]
  next hz => exact scaleIntBy_error hz

/-! ### The lengths of payloads -/

theorem joinPayload_length {left right : Except RefuseReason (List Byte)} {m : Nat}
    (hleft : ∀ {q}, left = .ok q → q.length = m) (hright : ∀ {q}, right = .ok q → q.length = n)
    (h : joinPayload left right = .ok pl) : pl.length = m + n := by
  unfold joinPayload at h
  split at h
  next => cases h
  next pa =>
    split at h
    next => cases h
    next pb =>
      cases h
      rw [List.length_append, hleft rfl, hright rfl]

theorem speedPayload_length {w : Rat} (h : speedPayload w = .ok pl) : pl.length = 4 := scaleIntBy_length h

theorem posPayload_length {th : Rat} (h : posPayload th = .ok pl) : pl.length = 8 := scaleIntBy_length h

theorem incposPayload_length {d : Rat} (h : incposPayload d = .ok pl) : pl.length = 4 := scaleIntBy_length h

theorem scposPayload_length {dir : Byte} {ang : Rat} (h : scposPayload dir ang = .ok pl) : pl.length = 4 := by
  unfold scposPayload singleCirclePayloadBy at h
  split at h
  next => cases h
  next =>
    split at h
    next => cases h
    next a ha =>
      cases h
      simp [scaleIntBy_length ha]

theorem posspdPayload_length {th w : Rat} (h : posspdPayload th w = .ok pl) : pl.length = 12 :=
  joinPayload_length posPayload_length speedPayload_length h

theorem scposspdPayload_length {dir : Byte} {ang w : Rat} (h : scposspdPayload dir ang w = .ok pl) : pl.length = 8 :=
  joinPayload_length scposPayload_length speedPayload_length h

theorem incposspdPayload_length {d w : Rat} (h : incposspdPayload d w = .ok pl) : pl.length = 8 :=
  joinPayload_length incposPayload_length speedPayload_length h

theorem openloopPayload_length {raw : List Byte} (h : openloopPayload raw = .ok pl) : pl.length ≠ 0 := by
  unfold openloopPayload at h
  split at h
  next => cases h
  next hraw =>
    cases h
    exact hraw

/-! ### Torques -/

theorem toIntBy_clampQ_bounds (r : ScaleRound) (h : lo ≤ hi) (q : Rat) :
    lo ≤ toIntBy r (clampQ q lo hi) ∧ toIntBy r (clampQ q lo hi) ≤ hi :=
  ⟨le_toIntBy (clampQ_bounds h q).1, toIntBy_le (clampQ_bounds h q).2⟩

theorem torquePayloadBy_of_ge (h : 2047 ≤ q) : torquePayloadBy r q = [0xFF, 0x07] := by
  have hz : toIntBy r 2047 = 2047 := by exact_mod_cast toIntBy_intCast r 2047
  rw [torquePayloadBy, clampQ_of_ge h (by norm_num), hz]
  decide

theorem torquePayloadBy_of_le (h : q ≤ -2047) : torquePayloadBy r q = [0x01, 0xF8] := by
  have hz : toIntBy r (-2047) = -2047 := by exact_mod_cast toIntBy_intCast r (-2047)
  rw [torquePayloadBy, clampQ_of_le h (by norm_num), hz]
  decide

end Sys2Proof.Machine

namespace Sys2Proof.Proofs

open Sys2Proof Sys2Proof.Machine

/-- Settles O13: `scaleIntBy` at its three types; a rounding stays between the integers a torque is clamped to. -/
theorem scaledOperands : Obligations.ScaledOperands := by
  unfold Obligations.ScaledOperands
  refine ⟨fun r x => ⟨?i32, ?i64, ?u16⟩, fun r iq => ?torque⟩
  case i32 => exact scaleIntBy_signed (n := 4) (by norm_num) (by norm_num) (by norm_num)
  case i64 => exact scaleIntBy_signed (n := 8) (by norm_num) (by norm_num) (by norm_num)
  case u16 => exact scaleIntBy_unsigned (n := 2) (by norm_num)
  case torque =>
    obtain ⟨hlo, hhi⟩ : -2047 ≤ toIntBy r (clampQ iq (-2047) 2047) ∧ toIntBy r (clampQ iq (-2047) 2047) ≤ 2047 := by
      exact_mod_cast toIntBy_clampQ_bounds r (lo := -2047) (hi := 2047) (by norm_num) iq
    have hword : (BitVec.ofNat 16 (leNat (torquePayloadBy r iq))).toInt = toIntBy r (clampQ iq (-2047) 2047) :=
      toInt_leInt (n := 2) (by norm_num) (by omega) (by omega)
    exact ⟨hlo, hhi, torquePayloadBy_length r iq, hword, torquePayloadBy_of_ge, torquePayloadBy_of_le⟩

end Sys2Proof.Proofs
end

section
/-! PROOF. The header words of the opcode table (`30_encoding.md` R91, R97, R98, R113): a row looks at the bytes of its mask, two
rows that match one word are the same or the two of `0xA8`, and a frame is decoded to the rows its header matches. -/

namespace Sys2Proof

open Machine

variable {h : BitVec 32} {row : WireRow}

/-! ### Header words -/

@[simp] theorem headerWord_lengthByte (b0 b1 b2 b3 : Byte) : (headerWord b0 b1 b2 b3).extractLsb' 0 8 = b3 :=
  BitVec.extractLsb'_append_eq_right

theorem headerWord_and (b0 b1 b2 b3 m0 m1 m2 m3 : Byte) :
    headerWord b0 b1 b2 b3 &&& headerWord m0 m1 m2 m3 = headerWord (b0 &&& m0) (b1 &&& m1) (b2 &&& m2) (b3 &&& m3) := by
  change (b0 ++ b1 ++ b2 ++ b3 : BitVec (8 + 8 + 8 + 8)) &&& (m0 ++ m1 ++ m2 ++ m3) = _
  rw [BitVec.and_append, BitVec.and_append, BitVec.and_append]
  rfl

/-- The mask of a row that fixes command id and length. -/
theorem headerWord_and_id_length (b0 b1 b2 b3 : Byte) : headerWord b0 b1 b2 b3 &&& 0xFFFF00FF = headerWord b0 b1 0 b3 := by
  have hmask : (0xFFFF00FF : BitVec 32) = headerWord (.allOnes 8) (.allOnes 8) 0 (.allOnes 8) := by decide
  rw [hmask, headerWord_and, BitVec.and_allOnes, BitVec.and_allOnes, BitVec.and_allOnes]
  simp

/-- The mask of a row that fixes the command id. -/
theorem headerWord_and_id (b0 b1 b2 b3 : Byte) : headerWord b0 b1 b2 b3 &&& 0xFFFF0000 = headerWord b0 b1 0 0 := by
  have hmask : (0xFFFF0000 : BitVec 32) = headerWord (.allOnes 8) (.allOnes 8) 0 0 := by decide
  rw [hmask, headerWord_and, BitVec.and_allOnes, BitVec.and_allOnes]
  simp

/-! ### The rows a header matches -/

theorem mem_rowsOfHeader : row ∈ rowsOfHeader h ↔ row ∈ wireTable ∧ h &&& row.mask = row.word := by
  simp [rowsOfHeader]

theorem mem_rowsOfFrame :
    row ∈ rowsOfFrame h ↔ row ∈ rowsOfHeader h ∧ row.format.admits (h.extractLsb' 0 8).toNat = true := by
  simp [rowsOfFrame]

/-- Two rows of the table that agree where both masks look are the same, or the two of `0xA8` (R98). -/
theorem wireTable_rows_apart : ∀ r₁ ∈ wireTable, ∀ r₂ ∈ wireTable, r₁.word &&& r₂.mask = r₂.word &&& r₁.mask →
    r₁ = r₂ ∨ (r₁.word = 0x3EA80008 ∧ r₂.word = 0x3EA80008) := by
  decide +kernel

theorem wireTable_nodup : wireTable.Nodup := by decide +kernel

theorem rowsOfHeader_unambiguous {r₁ r₂ : WireRow} (h₁ : r₁ ∈ rowsOfHeader h) (h₂ : r₂ ∈ rowsOfHeader h) :
    r₁ = r₂ ∨ (r₁.word = 0x3EA80008 ∧ r₂.word = 0x3EA80008) := by
  obtain ⟨hmem₁, hword₁⟩ := mem_rowsOfHeader.1 h₁
  obtain ⟨hmem₂, hword₂⟩ := mem_rowsOfHeader.1 h₂
  refine wireTable_rows_apart r₁ hmem₁ r₂ hmem₂ ?_
  rw [← hword₁, ← hword₂, BitVec.and_assoc, BitVec.and_assoc, BitVec.and_comm r₁.mask]

/-- The rows of `0xA8` with length 8, in table order. -/
def sharedRows : List WireRow := wireTable.filter fun row => row.word == 0x3EA80008

theorem sharedRows_opsel : sharedRows.map WireRow.opsel = [0x34, 0x35] := by decide +kernel

theorem sharedRows_mask_format : ∀ row ∈ sharedRows, row.mask = 0xFFFF00FF ∧ row.format = .fp := by decide +kernel

theorem mem_sharedRows : row ∈ sharedRows ↔ row ∈ wireTable ∧ row.word = 0x3EA80008 := by
  simp [sharedRows]

/-- A header word of `0xA8` matches both rows and no other. -/
theorem rowsOfHeader_shared (hword : h &&& 0xFFFF00FF = 0x3EA80008) : rowsOfHeader h = sharedRows := by
  have hmatches : ∀ row ∈ sharedRows, row ∈ rowsOfHeader h := fun row hrow => by
    obtain ⟨hmem, hshared⟩ := mem_sharedRows.1 hrow
    rw [mem_rowsOfHeader, (sharedRows_mask_format row hrow).1, hword, hshared]
    exact ⟨hmem, rfl⟩
  obtain ⟨shared, hrow⟩ : ∃ row, row ∈ sharedRows := List.exists_mem_of_length_pos (by decide +kernel)
  refine List.filter_congr fun row hmem => ?_
  rw [Bool.eq_iff_iff, beq_iff_eq, beq_iff_eq]
  constructor
  · intro hmatch
    obtain rfl | ⟨-, hw⟩ := rowsOfHeader_unambiguous (hmatches _ hrow) (mem_rowsOfHeader.2 ⟨hmem, hmatch⟩)
    · exact (mem_sharedRows.1 hrow).2
    · exact hw
  · exact fun hw => (mem_rowsOfHeader.1 (hmatches row (mem_sharedRows.2 ⟨hmem, hw⟩))).2

/-- A row a frame can be is its only one, or one of the two of `0xA8`. -/
theorem rowsOfFrame_cases (hrow : row ∈ rowsOfFrame h) :
    rowsOfFrame h = [row] ∨ rowsOfFrame h = sharedRows ∧ row ∈ sharedRows := by
  obtain ⟨hheader, hadmits⟩ := mem_rowsOfFrame.1 hrow
  obtain ⟨hmem, hmatch⟩ := mem_rowsOfHeader.1 hheader
  by_cases hword : row.word = 0x3EA80008
  · have hshared := mem_sharedRows.2 ⟨hmem, hword⟩
    obtain ⟨hmask, hformat⟩ := sharedRows_mask_format row hshared
    rw [hmask, hword] at hmatch
    refine .inr ⟨?_, hshared⟩
    rw [rowsOfFrame, rowsOfHeader_shared hmatch, List.filter_eq_self]
    intro other hother
    rwa [(sharedRows_mask_format other hother).2, ← hformat]
  · have hnodup : (rowsOfFrame h).Nodup := (wireTable_nodup.filter _).filter _
    refine .inl (List.perm_singleton.1 ((List.perm_ext_iff_of_nodup hnodup (List.nodup_singleton row)).2 fun other => ?_))
    rw [List.mem_singleton]
    constructor
    · intro hother
      obtain heq | ⟨-, hw⟩ := rowsOfHeader_unambiguous (mem_rowsOfFrame.1 hother).1 hheader
      · exact heq
      · exact absurd hw hword
    · rintro rfl
      exact hrow

/-! ### Words of the opcode table -/

theorem decodeOne_row : ∀ row ∈ wireTable, (decodeOne ⟨row.opsel, {}⟩).isSome = true := by decide +kernel

/-- Of the requests of a word, the first decodes to an instruction, or it is the only one. -/
theorem requestsOfWord_cons {nbits w : Nat} {r : Request} {rest : List Request}
    (hreq : requestsOfWord nbits w = r :: rest) : rest = [] ∨ (decodeOne r).isSome = true := by
  unfold requestsOfWord at hreq
  split at hreq
  · split at hreq <;> cases hreq
    exact .inl rfl
  · split at hreq
    · obtain ⟨row, hrow, rfl⟩ := List.mem_map.1 (hreq ▸ List.mem_cons_self : r ∈ _)
      exact .inr (decodeOne_row row (mem_rowsOfHeader.1 hrow).1)
    · cases hreq

theorem decodeTableWord_eq_head? (nbits w : Nat) : decodeTableWord nbits w = (decodeTableRows nbits w).head? := by
  unfold decodeTableWord decodeTableRows requestOfWord
  cases hreq : requestsOfWord nbits w with
  | nil => rfl
  | cons r rest =>
    cases hdec : decodeOne r with
    | some i => simp [hdec]
    | none =>
      obtain rfl : rest = [] := (requestsOfWord_cons hreq).resolve_right (by simp [hdec])
      simp [hdec]

theorem decodeTableRows_shared {w : Nat} (hw : w < 2 ^ 32) (hword : BitVec.ofNat 32 w &&& 0xFFFF00FF = 0x3EA80008) :
    decodeTableRows 32 w = [.incposspd 0 0 0, .impedance 0 0 0 0 0 0] := by
  have hreq : requestsOfWord 32 w = sharedRows.map fun row => ⟨row.opsel, {}⟩ := by
    rw [requestsOfWord, if_neg (by decide), if_pos hw, rowsOfHeader_shared hword]
  rw [decodeTableRows, hreq]
  decide +kernel

/-! ### Frames -/

theorem decodeData_length {n : Nat} {rest p : List Byte} (hdata : decodeData n rest = .ok p) : p.length = n := by
  unfold decodeData at hdata
  split_ifs at hdata with hzero hempty hlen hsum <;> cases hdata
  · exact hzero.symm
  · simp; omega

theorem decodeData_dataSection (p : List Byte) : decodeData p.length (dataSection p) = .ok p := by
  unfold decodeData dataSection
  split
  next hzero => simp_all
  next hzero => simp

/-- What a decoded frame is: the rows of its header, its axis byte, and the payload of its data section. -/
theorem decodeFrame_ok {f : List Byte} {v : FrameView} (hdec : decodeFrame f = .ok v) :
    ∃ b0 b1 b2 b3 b4 rest, f = b0 :: b1 :: b2 :: b3 :: b4 :: rest ∧ decodeData b3.toNat rest = .ok v.payload ∧
      v.opsels = (rowsOfFrame (headerWord b0 b1 b2 b3)).map WireRow.opsel ∧ v.axis = b2 := by
  unfold decodeFrame at hdec
  split at hdec
  next b0 b1 b2 b3 b4 rest =>
    split_ifs at hdec
    split at hdec
    next => cases hdec
    next p hdata =>
      cases hdec
      exact ⟨b0, b1, b2, b3, b4, rest, rfl, hdata, rfl, rfl⟩
  next => cases hdec

/-- The frame BUILD makes decodes, when its header is that of a row, to the rows of that header. -/
theorem decodeFrame_buildFrame {c a : Byte} {p f : List Byte} (hf : buildFrame c a p = .ok f)
    (hrow : row ∈ rowsOfFrame (headerWord marker c a (BitVec.ofNat 8 p.length))) :
    decodeFrame f = .ok ⟨(rowsOfFrame (headerWord marker c a (BitVec.ofNat 8 p.length))).map WireRow.opsel, a, p⟩ := by
  obtain ⟨hlen, ha1, ha32, rfl⟩ := buildFrame_ok_iff.1 hf
  have ha0 : a.toNat ≠ 0 := by omega
  have hheader := List.ne_nil_of_mem (mem_rowsOfFrame.1 hrow).1
  have hframe := List.ne_nil_of_mem hrow
  have hbyte : (BitVec.ofNat 8 p.length).toNat = p.length := Nat.mod_eq_of_lt (by omega)
  simp [decodeFrame, headerBytes, ha0, ha32, hheader, hframe, hbyte, decodeData_dataSection]

/-- The selectors of the rows that have frames without a payload, and of those that have frames with one (R113). -/
theorem wireTable_formats : ∀ row ∈ wireTable,
    (row.format ≠ .fp →
      0x20 ≤ row.opsel.toNat ∧ row.opsel.toNat ≤ 0x2B ∨ 0x36 ≤ row.opsel.toNat ∧ row.opsel.toNat ≤ 0x38) ∧
    (row.format ≠ .f0 → 0x2C ≤ row.opsel.toNat ∧ row.opsel.toNat ≤ 0x38) := by
  decide +kernel

theorem FrameFormat.admits_zero_iff (fmt : FrameFormat) : fmt.admits 0 = true ↔ fmt ≠ .fp := by
  cases fmt <;> simp [FrameFormat.admits]

theorem FrameFormat.admits_pos_iff (fmt : FrameFormat) {n : Nat} (hn : n ≠ 0) : fmt.admits n = true ↔ fmt ≠ .f0 := by
  cases fmt <;> simp [FrameFormat.admits, hn]

/-- Every selector a decoded frame is given is that of a row that has frames of its payload's length. -/
theorem decodeFrame_row {f : List Byte} {v : FrameView} (hdec : decodeFrame f = .ok v) {c : BitVec 6} (hc : c ∈ v.opsels) :
    ∃ row ∈ wireTable, row.opsel = c ∧ row.format.admits v.payload.length = true := by
  obtain ⟨b0, b1, b2, b3, b4, rest, -, hdata, hopsels, -⟩ := decodeFrame_ok hdec
  rw [hopsels] at hc
  obtain ⟨row, hrow, rfl⟩ := List.mem_map.1 hc
  obtain ⟨hheader, hadmits⟩ := mem_rowsOfFrame.1 hrow
  rw [headerWord_lengthByte, ← decodeData_length hdata] at hadmits
  exact ⟨row, (mem_rowsOfHeader.1 hheader).1, rfl, hadmits⟩

end Sys2Proof

namespace Sys2Proof.Proofs

open Sys2Proof Sys2Proof.Machine

/-- Settles O10: the table's rows are apart but for `0xA8`, and each has its selector in the range of its format. -/
theorem headersAreUnambiguous : Obligations.HeadersAreUnambiguous := by
  unfold Obligations.HeadersAreUnambiguous
  refine ⟨?rows, ?shared, ?first, ?formats⟩
  case rows => exact fun h r₁ r₂ => rowsOfHeader_unambiguous
  case shared => exact fun w => decodeTableRows_shared
  case first => exact decodeTableWord_eq_head?
  case formats =>
    intro f v hdec c hc
    obtain ⟨row, hmem, rfl, hadmits⟩ := decodeFrame_row hdec hc
    obtain ⟨hwithout, hwith⟩ := wireTable_formats row hmem
    constructor
    · intro hp
      rw [hp] at hadmits
      exact hwithout ((FrameFormat.admits_zero_iff _).1 hadmits)
    · intro hp
      exact hwith ((FrameFormat.admits_pos_iff _ (by simpa using hp)).1 hadmits)

end Sys2Proof.Proofs
end

section
/-! PROOF. Encoding followed by decoding (`30_encoding.md` R90 to R93, R97, R98): the payload of a wire command has the length of
its row, so that the header of its frame matches that row, whatever the axis id. -/

namespace Sys2Proof

open Machine

variable {row : WireRow} {sel : BitVec 6} {c : Byte} {n : Nat} {p : List Byte}

/-! ### The row of a wire command -/

/-- Whether frames with command id `c` and length byte `n` are those of the row, whatever their axis byte. -/
def WireRow.carries (row : WireRow) (c : Byte) (n : Nat) : Bool :=
  row.format.admits n &&
    (row.mask == 0xFFFF00FF && row.word == headerWord marker c 0 (BitVec.ofNat 8 n) ||
      row.mask == 0xFFFF0000 && row.word == headerWord marker c 0 0)

theorem WireRow.carries_iff :
    row.carries c n = true ↔ row.format.admits n = true ∧
      (row.mask = 0xFFFF00FF ∧ row.word = headerWord marker c 0 (BitVec.ofNat 8 n) ∨
        row.mask = 0xFFFF0000 ∧ row.word = headerWord marker c 0 0) := by
  simp [WireRow.carries]

theorem mem_rowsOfFrame_of_carries (hmem : row ∈ wireTable) (hcarries : row.carries c n = true) (hn : n ≤ 255) (a : Byte) :
    row ∈ rowsOfFrame (headerWord marker c a (BitVec.ofNat 8 n)) := by
  obtain ⟨hadmits, hword⟩ := WireRow.carries_iff.1 hcarries
  have hbyte : (BitVec.ofNat 8 n).toNat = n := Nat.mod_eq_of_lt (by omega)
  rw [mem_rowsOfFrame, mem_rowsOfHeader, headerWord_lengthByte, hbyte]
  refine ⟨⟨hmem, ?_⟩, hadmits⟩
  obtain ⟨hmask, hword⟩ | ⟨hmask, hword⟩ := hword
  · rw [hmask, hword, headerWord_and_id_length]
  · rw [hmask, hword, headerWord_and_id]

/-- Whether the table has a row with this selector that carries the frames with command id `c` and length byte `n`. -/
def hasRow (sel : BitVec 6) (c : Byte) (n : Nat) : Bool :=
  wireTable.any fun row => row.opsel == sel && row.carries c n

theorem hasRow_iff :
    hasRow sel c n = true ↔ ∃ row ∈ wireTable, row.opsel = sel ∧ row.carries c n = true := by
  simp [hasRow]

/-- A row that fixes the command id alone has the frames of every length its format admits. -/
theorem hasRow_of_id {fmt : FrameFormat}
    (hrow : ∃ row ∈ wireTable,
      row.opsel = sel ∧ row.format = fmt ∧ row.mask = 0xFFFF0000 ∧ row.word = headerWord marker c 0 0)
    (hadmits : fmt.admits n = true) : hasRow sel c n = true := by
  obtain ⟨row, hmem, hsel, rfl, hmask, hword⟩ := hrow
  exact hasRow_iff.2 ⟨row, hmem, hsel, WireRow.carries_iff.2 ⟨hadmits, .inr ⟨hmask, hword⟩⟩⟩

/-- A command whose payloads all have rows has a row. -/
theorem hasRow_of_payload {i : Instr} {c' : Byte} {pl : Except RefuseReason (List Byte)} (hi : i.wire? = some (c', pl))
    (h : i.wire? = some (c, .ok p)) (hrow : ∀ {q}, pl = .ok q → hasRow (encode i).opsel c' q.length = true) :
    hasRow (encode i).opsel c p.length = true := by
  obtain ⟨rfl, hp⟩ := Prod.mk.inj (Option.some.inj (hi.symm.trans h))
  exact hrow hp

/-- A command whose payloads have one length has a row if that length has one. -/
theorem hasRow_of_length {i : Instr} {c' : Byte} {pl : Except RefuseReason (List Byte)} (hi : i.wire? = some (c', pl))
    (h : i.wire? = some (c, .ok p)) (hlen : ∀ {q}, pl = .ok q → q.length = n)
    (hrow : hasRow (encode i).opsel c' n = true) : hasRow (encode i).opsel c p.length = true :=
  hasRow_of_payload hi h fun hq => by rwa [hlen hq]

/-- Every wire command has a row of the table, under its own selector, that carries its frames. -/
theorem Instr.wire?_hasRow {i : Instr} (h : i.wire? = some (c, .ok p)) : hasRow (encode i).opsel c p.length = true := by
  cases i with
  | enable | disable | stop | clrerr | zero | zero95 | clrturn | rdstat1 | rdstat2 | rdenc | rdmtang | rdstang =>
    cases h
    rfl
  | openloop k raw =>
    exact hasRow_of_payload rfl h fun hq => hasRow_of_id (sel := 0x2C) (fmt := .fp) (by decide +kernel)
      ((FrameFormat.admits_pos_iff _ (openloopPayload_length hq)).2 (by decide))
  | torque k iq =>
    exact hasRow_of_length (n := 2) rfl h (fun hq => Except.ok.inj hq ▸ torquePayloadBy_length _ iq) rfl
  | speed k w => exact hasRow_of_length rfl h speedPayload_length rfl
  | pos k th => exact hasRow_of_length rfl h posPayload_length rfl
  | posspd k th w => exact hasRow_of_length rfl h posspdPayload_length rfl
  | scpos k dir ang => exact hasRow_of_length rfl h scposPayload_length rfl
  | scposspd k dir ang w => exact hasRow_of_length rfl h scposspdPayload_length rfl
  | incpos k d => exact hasRow_of_length rfl h incposPayload_length rfl
  | incposspd k d w => exact hasRow_of_length rfl h incposspdPayload_length rfl
  | impedance k pos v kp kd t =>
    exact hasRow_of_length rfl h (fun hq => Except.ok.inj hq ▸ impPayload_length pos v kp kd t) rfl
  | paramrd k raw =>
    exact hasRow_of_payload rfl h fun _ => hasRow_of_id (sel := 0x36) (fmt := .any) (by decide +kernel) rfl
  | paramwrRam k raw =>
    exact hasRow_of_payload rfl h fun _ => hasRow_of_id (sel := 0x37) (fmt := .any) (by decide +kernel) rfl
  | paramwrRom k raw =>
    exact hasRow_of_payload rfl h fun _ => hasRow_of_id (sel := 0x38) (fmt := .any) (by decide +kernel) rfl
  | csumClr | csumAdd | csumRd | csum8 | build | validate | decMtang | decStat2 | decStang | quant | imppack | transact
  | fireforget | refresh | isvalid | computePd | run | cancel => cases h

theorem encodeFrame_ok {i : Instr} {a : Byte} {f : List Byte} (h : encodeFrame a i = some (.ok f)) :
    ∃ c p, i.wire? = some (c, .ok p) ∧ buildFrame c a p = .ok f := by
  unfold encodeFrame at h
  split at h
  next => cases h
  next => cases h
  next c p hwire => exact ⟨c, p, hwire, Option.some.inj h⟩

end Sys2Proof

namespace Sys2Proof.Proofs

open Sys2Proof Sys2Proof.Machine

/-- Settles O11: the frame's header is that of the command's row, which is its only one or one of the two of `0xA8`. -/
theorem wireFramesDecodeBack : Obligations.WireFramesDecodeBack := by
  unfold Obligations.WireFramesDecodeBack
  intro i a f hf
  obtain ⟨c, p, hwire, hbuild⟩ := encodeFrame_ok hf
  obtain ⟨row, hmem, hsel, hcarries⟩ := hasRow_iff.1 (Instr.wire?_hasRow hwire)
  have hrow := mem_rowsOfFrame_of_carries hmem hcarries (buildFrame_ok_iff.1 hbuild).1 a
  refine ⟨c, p, _, hwire, decodeFrame_buildFrame hbuild hrow, rfl, rfl, ?_⟩
  obtain hone | ⟨hrows, hshared⟩ := rowsOfFrame_cases hrow
  · exact .inl (by rw [hone, ← hsel]; rfl)
  · have hown : row.opsel ∈ sharedRows.map WireRow.opsel := List.mem_map_of_mem hshared
    rw [sharedRows_opsel, hsel] at hown
    exact .inr ⟨by rw [hrows, sharedRows_opsel], by simpa using hown⟩

end Sys2Proof.Proofs
end

section
/-! PROOF. The host port (`30_encoding.md` R111, R112): `decode` undoes `encode` and refuses exactly the selects outside the
table, and a step runs what it decodes. -/

namespace Sys2Proof

/-- The round trips of `PortRoundTrip`, row by row of R112. -/
theorem decode_encode (i : Instr) : decode (encode i) = .ok i := by
  cases i <;> rfl

/-- The arm of `decode` that answers an instruction is that of its own select. -/
theorem opsel_of_decode {r : Request} {i : Instr} (h : decode r = .ok i) : r.opsel = (encode i).opsel := by
  unfold decode at h
  split at h
  all_goals cases h
  all_goals exact BitVec.eq_of_toNat_eq ‹_›

/-- The select of every instruction is in the table: a unit operation's in one of the groups of R112, a wire command's from
`0x20` to `0x38`. -/
theorem encode_opsel_in_table (i : Instr) :
    (encode i).opsel.toNat ∈ [0x00, 0x01, 0x02, 0x03, 0x04, 0x05, 0x08, 0x09, 0x0A, 0x0C, 0x0D, 0x10, 0x11, 0x12, 0x13, 0x14,
      0x18, 0x19] ∨ 0x20 ≤ (encode i).opsel.toNat ∧ (encode i).opsel.toNat ≤ 0x38 := by
  cases i <;> simp [encode]

theorem decode_error_iff (r : Request) :
    (∃ e, decode r = .error e) ↔
      r.opsel.toNat ∉ [0x00, 0x01, 0x02, 0x03, 0x04, 0x05, 0x08, 0x09, 0x0A, 0x0C, 0x0D, 0x10, 0x11, 0x12, 0x13, 0x14,
        0x18, 0x19] ∧ ¬(0x20 ≤ r.opsel.toNat ∧ r.opsel.toNat ≤ 0x38) := by
  constructor
  · rintro ⟨e, h⟩
    unfold decode at h
    split at h
    all_goals cases h
    simp only [imp_false] at *
    simp only [List.mem_cons, List.not_mem_nil, or_false]
    omega
  · rintro ⟨hunit, hwire⟩
    cases hdec : decode r with
    | error e => exact ⟨e, rfl⟩
    | ok i =>
      have htable := encode_opsel_in_table i
      rw [← opsel_of_decode hdec] at htable
      exact absurd htable (not_or.2 ⟨hunit, hwire⟩)

end Sys2Proof

namespace Sys2Proof.Machine

variable {s : State}

theorem step_of_decode_ok {i : Instr} (hs : s.port.start = true) (h : decode s.placed = .ok i) : step s = exec i s.taken := by
  simp [step, fetch, hs, h]

theorem step_of_decode_error {e : DecodeError} (hs : s.port.start = true) (h : decode s.placed = .error e) :
    step s = .next (badOpsel s.taken) := by
  simp [step, fetch, hs, h]

theorem step_of_idle_port (hs : s.port.start = false) : step s = agentMove s.drawEvent.1 s.drawEvent.2 := by
  simp [step, hs, nextMove]

end Sys2Proof.Machine

namespace Sys2Proof.Proofs

open Sys2Proof Sys2Proof.Machine

/-- Settles O54: `step` by what stands at the port; placing a request writes the port alone. -/
theorem stepRunsTheDecodedInstruction : Obligations.StepRunsTheDecodedInstruction := by
  unfold Obligations.StepRunsTheDecodedInstruction
  refine ⟨?runs, ?placed, ?taken, ?agents⟩
  case runs => exact fun s i => step_of_decode_ok
  case placed => exact fun s r => ⟨s.place r, rfl, State.place_start s r, State.place_placed s r, rfl, rfl⟩
  case taken => exact fun s => rfl
  case agents => exact fun s => step_of_idle_port

/-- Settles O9: the arms of `decode` and the refusal of the other selects; the sample words and frames by evaluation. -/
theorem portDecodesItsTable : Obligations.PortDecodesItsTable := by
  unfold Obligations.PortDecodesItsTable
  refine ⟨decode_encode, fun r i => opsel_of_decode, decode_error_iff, fun s e => step_of_decode_error, ?samples⟩
  case samples => decide +kernel

end Sys2Proof.Proofs
end

section
/-! PROOF. The checksum adder (`40_checksum.md` R120 to R125): `csumAdd` is addition modulo 256, and `csum8` the sum of the
bytes, so a byte can be taken out of any place of the sequence. -/

namespace Sys2Proof.Machine

theorem csumAdd_eq_ofNat (acc b : Byte) : csumAdd acc b = BitVec.ofNat 8 ((acc.toNat + b.toNat) % 256) :=
  BitVec.eq_of_toNat_eq (by simp [csumAdd])

theorem csum8_eq_ofNat_sum (p : List Byte) : csum8 p = BitVec.ofNat 8 (p.map BitVec.toNat).sum := by
  rw [csum8, csum8_foldl]
  exact BitVec.zero_add _

theorem csum8_eq_ofNat_sum_mod (p : List Byte) : csum8 p = BitVec.ofNat 8 ((p.map BitVec.toNat).sum % 256) := by
  rw [csum8_eq_ofNat_sum]
  exact BitVec.eq_of_toNat_eq (by simp)

theorem csum8_concat (p : List Byte) (b : Byte) : csum8 (p ++ [b]) = csumAdd (csum8 p) b := by
  simp [csum8]

/-- Law (a) of R125. -/
theorem csum8_append (p q : List Byte) : csum8 (p ++ q) = csumAdd (csum8 p) (csum8 q) := by
  rw [csum8_eq_ofNat_sum (p ++ q), List.map_append, List.sum_append, BitVec.ofNat_add, ← csum8_eq_ofNat_sum,
    ← csum8_eq_ofNat_sum, csumAdd]

/-- Law (b) of R125. -/
theorem csum8_perm {p q : List Byte} (h : p.Perm q) : csum8 p = csum8 q := by
  rw [csum8_eq_ofNat_sum, csum8_eq_ofNat_sum, (h.map BitVec.toNat).sum_eq]

theorem csum8_cons (b : Byte) (p : List Byte) : csum8 (b :: p) = b + csum8 p := by
  rw [csum8_perm (List.perm_append_singleton b p).symm, csum8_concat, csumAdd, BitVec.add_comm]

/-- A byte counts the same at every place: laws (c) and (d) of R125 come from this. -/
theorem csum8_middle (u v : List Byte) (x : Byte) : csum8 (u ++ x :: v) = x + csum8 (u ++ v) := by
  rw [csum8_perm List.perm_middle, csum8_cons]

theorem csum8_middle_two (u v w : List Byte) (x y : Byte) :
    csum8 (u ++ x :: (v ++ y :: w)) = x + y + csum8 (u ++ v ++ w) := by
  rw [csum8_middle, ← List.append_assoc, csum8_middle, BitVec.add_assoc]

theorem csum8_middle_inj {u v : List Byte} {x y : Byte} : csum8 (u ++ x :: v) = csum8 (u ++ y :: v) ↔ x = y := by
  rw [csum8_middle, csum8_middle, BitVec.add_left_inj]

end Sys2Proof.Machine

namespace Sys2Proof.Proofs

open Sys2Proof Sys2Proof.Machine

/-- Settles O2: the adder modulo 256, the sum of the bytes, and a byte taken out of its place. -/
theorem csum8IsByteSum : Obligations.Csum8IsByteSum := by
  unfold Obligations.Csum8IsByteSum
  refine ⟨?encoding, ?empty, ?last, ?effect, ?concat, ?order, ?oneByte, ?twoBytes⟩
  case encoding => exact fun o => rfl
  case empty => rfl
  case last => exact fun m b => (csum8_concat m b).trans (csumAdd_eq_ofNat _ b)
  case effect =>
    intro m s
    refine ⟨?_, csum8_eq_ofNat_sum_mod m⟩
    rw [exec_csum8, execCsum8, csum8_eq_ofNat_sum_mod]
  case concat => exact fun a b => (csum8_append a b).trans (csumAdd_eq_ofNat _ _)
  case order => exact fun a b => csum8_perm
  case oneByte => exact fun u v x y hxy => mt csum8_middle_inj.1 hxy
  case twoBytes =>
    intro u v w x₁ x₂ y₁ y₂ hsum
    rw [csum8_middle_two, csum8_middle_two, hsum]

/-- Settles O1: the arms of `decode` and of `exec`; the adder by `csumAdd_eq_ofNat`. -/
theorem checksumMicroSteps : Obligations.ChecksumMicroSteps := by
  unfold Obligations.ChecksumMicroSteps
  refine ⟨fun o => ⟨rfl, rfl, rfl⟩, fun s b => ⟨exec_csumClr, ?add, exec_csumRd⟩⟩
  case add => rw [exec_csumAdd, execCsumAdd, csumAdd_eq_ofNat]

end Sys2Proof.Proofs
end

section
/-! PROOF. BUILD and VALIDATE (`41_frame_codec.md` R130 to R136): a response is a first byte, four bytes that are not examined,
and a data section, so VALIDATE is one equation for each of the two formats, and the round trip and the corruptions of a
built frame are uses of it. -/

namespace Sys2Proof.Machine

variable {s : State} {c a m x b : Byte} {p f hdr raw raw' : List Byte} {n i : Nat}

/-! ### BUILD -/

theorem buildFrame_refused (h : 255 < p.length ∨ a.toNat < 1 ∨ 32 < a.toNat) : buildFrame c a p = .error .encodeRange := by
  cases hf : buildFrame c a p with
  | error r => rw [buildFrame_error hf]
  | ok f =>
    obtain ⟨hlen, ha1, ha32, -⟩ := buildFrame_ok_iff.1 hf
    omega

theorem execBuild_ok (h : buildFrame c a p = .ok f) :
    execBuild c a p s =
      .next ({ s with host := { s.host with txbuf := f, st := (serialize c a p).2 } }.answer (.ok (.bytes f))) := by
  simp [execBuild, Codec.build_eq h]

theorem execBuild_error {r : RefuseReason} (h : buildFrame c a p = .error r) :
    execBuild c a p s = .next (s.answer (.refused r)) := by
  simp [execBuild, Codec.build, h]

/-- The frame of an empty payload is its header alone (R131). -/
theorem buildFrame_nil (h : buildFrame c a [] = .ok f) : f = marker :: [c, a, 0, csum8 [marker, c, a, 0]] := by
  obtain ⟨-, -, -, rfl⟩ := buildFrame_ok_iff.1 h
  rfl

/-- The frame of a payload, in the shape VALIDATE reads it (R131). -/
theorem buildFrame_payload (hp : p ≠ []) (h : buildFrame c a p = .ok f) :
    f = marker ::
      ([c, a, BitVec.ofNat 8 p.length, csum8 [marker, c, a, BitVec.ofNat 8 p.length]] ++ (p ++ [csum8 p])) := by
  obtain ⟨-, -, -, rfl⟩ := buildFrame_ok_iff.1 h
  simp [dataSection, headerBytes, hp]

/-! ### VALIDATE -/

/-- What VALIDATE hands over for a verdict. -/
def verdictResult : Except ErrKind (List Byte) → Result
  | .ok p => .ok (.bytes p)
  | .error e => .err e

@[simp] theorem verdictResult_ok : verdictResult (.ok p) = .ok (.bytes p) := rfl

@[simp] theorem verdictResult_error {e : ErrKind} : verdictResult (.error e) = .err e := rfl

theorem execValidate_zero : execValidate 0 s = .next (s.answer (.refused .decodeLength)) := rfl

theorem execValidate_pos (hn : 1 ≤ n) :
    execValidate n s =
      .next ({ s with host := { s.host with st := (desRun s.host.rxbuf n).st } }.answer
        (verdictResult (validateFrame s.host.rxbuf n))) := by
  unfold execValidate
  rw [if_neg (Nat.ne_of_gt hn)]
  cases hv : validateFrame s.host.rxbuf n <;> simp [Codec.validate, hv]

theorem validateFrame_timeout (h : raw.length ≠ n) : validateFrame raw n = .error .timeout := if_pos h

theorem validateFrame_invalidHeader (h : raw.length = n) (h0 : raw[0]? ≠ some marker) :
    validateFrame raw n = .error .invalidHeader := by
  rw [validateFrame, if_neg (not_not.2 h), if_pos h0]

/-- VALIDATE looks at the length, the first byte and the data section, and at nothing else (R134). -/
theorem validateFrame_congr (hlen : raw.length = raw'.length) (h0 : raw[0]? = raw'[0]?) (hdata : raw.drop 5 = raw'.drop 5) :
    validateFrame raw n = validateFrame raw' n := by
  have hlast (hn : 5 < n) : raw[n - 1]? = raw'[n - 1]? := by
    rw [show n - 1 = 5 + (n - 6) by omega, ← List.getElem?_drop, ← List.getElem?_drop, hdata]
  unfold validateFrame
  rw [hlen, h0, hdata]
  split_ifs with _ _ hn
  · rfl
  · rfl
  · rw [hlast hn]
  · rfl

theorem validateFrame_set_header (h1 : 1 ≤ i) (h4 : i ≤ 4) : validateFrame (raw.set i b) n = validateFrame raw n :=
  validateFrame_congr List.length_set (List.getElem?_set_ne (by omega)) (List.drop_set_of_lt (by omega))

/-- VALIDATE of a response without a data section. -/
theorem validateFrame_header (hhdr : hdr.length ≤ 4) :
    validateFrame (m :: hdr) (hdr.length + 1) = if m = marker then .ok [] else .error .invalidHeader := by
  have hshort : ¬5 < hdr.length + 1 := by omega
  rw [validateFrame, if_neg (not_not.2 List.length_cons), if_neg hshort]
  simp

theorem response_length (hhdr : hdr.length = 4) : (m :: (hdr ++ (p ++ [x]))).length = p.length + 6 := by
  simp [hhdr]
  omega

/-- VALIDATE of a response with a data section: payload and checksum (R132). -/
theorem validateFrame_response (hhdr : hdr.length = 4) :
    validateFrame (m :: (hdr ++ (p ++ [x]))) (p.length + 6) =
      if m = marker then if x = csum8 p then .ok p else .error .checksum else .error .invalidHeader := by
  have hdata : ((m :: (hdr ++ (p ++ [x]))).drop 5).take p.length = p := by simp [hhdr]
  have hlast : (m :: (hdr ++ (p ++ [x])))[p.length + 5]? = some x := by simp [List.getElem?_append_right, hhdr]
  have hlong : 5 < p.length + 6 := by omega
  rw [validateFrame, if_neg (not_not.2 (response_length hhdr)), if_pos hlong]
  dsimp only
  rw [Nat.add_sub_cancel, Nat.add_succ_sub_one, hdata, hlast]
  simp

/-- A response handed to VALIDATE has one of the two shapes. -/
theorem response_shape (h : 1 ≤ raw.length) :
    (∃ m hdr, hdr.length ≤ 4 ∧ raw = m :: hdr) ∨ ∃ m hdr p x, hdr.length = 4 ∧ raw = m :: (hdr ++ (p ++ [x])) := by
  cases raw with
  | nil => simp at h
  | cons m rest =>
    by_cases hle : rest.length ≤ 4
    · exact .inl ⟨m, rest, hle, rfl⟩
    · have hne : rest.drop 4 ≠ [] := by simpa using hle
      refine .inr ⟨m, rest.take 4, (rest.drop 4).dropLast, (rest.drop 4).getLast hne, by simp; omega, ?_⟩
      rw [List.dropLast_append_getLast, List.take_append_drop]

/-! ### A built frame, whole and corrupted -/

theorem validateFrame_buildFrame (h : buildFrame c a p = .ok f) : validateFrame f f.length = .ok p := by
  by_cases hp : p = []
  · subst hp
    rw [buildFrame_nil h]
    exact validateFrame_header (by simp)
  · rw [buildFrame_payload hp h]
    simpa using validateFrame_response (m := marker) (x := csum8 p) (p := p) (hdr := [c, a, _, _]) rfl

theorem csum8_set_ne (hi : i < p.length) (hb : p[i]? ≠ some b) : csum8 p ≠ csum8 (p.set i b) := by
  rw [List.set_eq_take_append_cons_drop, if_pos hi]
  conv_lhs => rw [← List.take_append_drop i p, List.drop_eq_getElem_cons hi]
  rw [Ne, csum8_middle_inj]
  simpa [hi] using hb

/-- Another byte in the data section of an accepted response, whether of the payload or the checksum (R136). -/
theorem validateFrame_set_data (hhdr : hdr.length = 4) (hi : i ≤ p.length) (hb : (p ++ [csum8 p])[i]? ≠ some b) :
    validateFrame (marker :: (hdr ++ (p ++ [csum8 p]).set i b)) (p.length + 6) = .error .checksum := by
  by_cases hlt : i < p.length
  · rw [List.getElem?_append_left hlt] at hb
    have hresp := validateFrame_response (m := marker) (x := csum8 p) (p := p.set i b) hhdr
    rw [List.length_set, if_pos rfl, if_neg (csum8_set_ne hlt hb)] at hresp
    rw [List.set_append_left _ _ hlt, hresp]
  · obtain rfl : i = p.length := by omega
    have hsum : b ≠ csum8 p := by simpa [eq_comm] using hb
    have hset : (p ++ [csum8 p]).set p.length b = p ++ [b] := by simp
    rw [hset, validateFrame_response hhdr, if_pos rfl, if_neg hsum]

theorem validateFrame_buildFrame_set_marker (h : buildFrame c a p = .ok f) (hb : f[0]? ≠ some b) :
    validateFrame (f.set 0 b) f.length = .error .invalidHeader := by
  obtain ⟨-, -, -, rfl⟩ := buildFrame_ok_iff.1 h
  refine validateFrame_invalidHeader List.length_set ?_
  simpa [headerBytes, eq_comm] using hb

theorem validateFrame_buildFrame_set_data (h : buildFrame c a p = .ok f) (hp : p ≠ []) (h5 : 5 ≤ i) (hi : i < f.length)
    (hb : f[i]? ≠ some b) : validateFrame (f.set i b) f.length = .error .checksum := by
  obtain ⟨j, rfl⟩ : ∃ j, i = j + 5 := ⟨i - 5, by omega⟩
  obtain rfl := buildFrame_payload hp h
  simpa using validateFrame_set_data (hdr := [c, a, _, _]) rfl (by simpa using hi) hb

end Sys2Proof.Machine

namespace Sys2Proof.Proofs

open Sys2Proof Sys2Proof.Machine

/-- Settles O3: what `buildFrame` makes or refuses is what the port answers. -/
theorem buildMakesTheFrame : Obligations.BuildMakesTheFrame := by
  unfold Obligations.BuildMakesTheFrame
  refine ⟨fun o => rfl, fun c a p s => ⟨?frames, ?refuses⟩⟩
  case frames => exact fun hp h1 h32 => ⟨_, exec_build.trans (execBuild_ok (buildFrame_frameBytes hp h1 h32))⟩
  case refuses => exact fun h => exec_build.trans (execBuild_error (buildFrame_refused h))

/-- Settles O4: the parts of the frame by its shape; BUILD answers what `buildFrame` gives, in every state. -/
theorem builtFrameProperties : Obligations.BuiltFrameProperties := by
  unfold Obligations.BuiltFrameProperties
  refine ⟨fun c a p f h => ?parts, fun c a p s t => ?stateless⟩
  case parts =>
    by_cases hp : p = []
    · subst hp
      simp [buildFrame_nil h, marker]
    · have hlen : p.length < 256 := Nat.lt_succ_of_le (buildFrame_ok_iff.1 h).1
      rw [buildFrame_payload hp h]
      simp [marker, hp, Nat.mod_eq_of_lt hlen]
  case stateless =>
    rw [exec_build, exec_build]
    cases h : buildFrame c a p with
    | error r => exact ⟨_, _, execBuild_error h, execBuild_error h, rfl⟩
    | ok f => exact ⟨_, _, execBuild_ok h, execBuild_ok h, rfl⟩

/-- Settles O5: the port hands over the verdict of `validateFrame`, whose three checks the statement writes out. -/
theorem validateChecks : Obligations.ValidateChecks := by
  unfold Obligations.ValidateChecks
  refine ⟨fun o => rfl, fun s => exec_validate.trans execValidate_zero,
    fun n s hn => ⟨(desRun s.host.rxbuf n).st, ?verdict⟩⟩
  case verdict =>
    rw [exec_validate, execValidate_pos hn]
    congr 2
    unfold validateFrame
    by_cases hlong : 5 < n
    · simp [apply_ite verdictResult, marker, hlong, Nat.not_le.2 hlong]
    · simp [apply_ite verdictResult, marker, hlong, Nat.not_lt.1 hlong]

/-- Settles O6: VALIDATE looks at the length, the first byte and the data section alone. -/
theorem headerFieldsNotExamined : Obligations.HeaderFieldsNotExamined := by
  unfold Obligations.HeaderFieldsNotExamined
  refine ⟨fun raw n i b => validateFrame_set_header, fun b₁ b₂ b₃ b₄ p => ?accepted⟩
  case accepted =>
    have hresp := validateFrame_response (m := marker) (x := csum8 p) (p := p) (hdr := [b₁, b₂, b₃, b₄]) rfl
    rwa [if_pos rfl, if_pos rfl] at hresp

/-- Settles O7: a built frame is a response with its own checksum; a changed byte by the part it stands in, a removed or added
one by the length. -/
theorem roundTripAndCorruption : Obligations.RoundTripAndCorruption := by
  unfold Obligations.RoundTripAndCorruption
  refine ⟨?roundTrip, fun c a p f h hp => ⟨fun i b hi hb => ⟨?marker, ?header, ?data⟩,
    fun i hi => ?erased, fun i b hi => ?inserted⟩⟩
  case roundTrip =>
    intro c a p h1 h32 hp
    obtain ⟨f, h⟩ := buildFrame_exists (c := c) hp h1 h32
    exact ⟨f, h, validateFrame_buildFrame h⟩
  case marker =>
    rintro rfl
    exact validateFrame_buildFrame_set_marker h hb
  case header =>
    rintro ⟨h1, h4⟩
    rw [validateFrame_set_header h1 h4, validateFrame_buildFrame h]
  case data => exact fun h5 => validateFrame_buildFrame_set_data h (List.ne_nil_of_length_pos hp) h5 hi hb
  case erased =>
    refine validateFrame_timeout ?_
    rw [List.length_eraseIdx_of_lt hi]
    omega
  case inserted =>
    refine validateFrame_timeout ?_
    rw [List.length_insertIdx_of_le_length hi]
    omega

end Sys2Proof.Proofs
end

section
/-! PROOF. The streaming form (`41_frame_codec.md` R140 to R145): the serializer and the deserializer pass the header first, and
in the data section keep the checksum of the payload bytes seen so far. -/

namespace Sys2Proof.Machine

variable {c a m x acc : Byte} {p q f hdr raw : List Byte} {n i : Nat} {d : Des}

/-! ### The serializer -/

/-- The five header bytes (R141). -/
theorem serRun_header :
    (serRun c a p (n + 5) {}).1 =
      headerBytes c a p.length ++ [csum8 (headerBytes c a p.length)] ++ (serRun c a p n ⟨5, 0⟩).1 := rfl

theorem serStep_payload (b : Byte) :
    serStep c a (q ++ b :: p) ⟨q.length + 5, csum8 q⟩ = (b, ⟨(q ++ [b]).length + 5, csum8 (q ++ [b])⟩) := by
  simp [serStep, csum8_concat]

theorem serStep_checksum : (serStep c a p ⟨p.length + 5, acc⟩).1 = acc := by
  simp [serStep]

/-- The data section, once the bytes `q` of the payload have been emitted (R141). -/
theorem serRun_data : (serRun c a (q ++ p) (p.length + 1) ⟨q.length + 5, csum8 q⟩).1 = p ++ [csum8 (q ++ p)] := by
  induction p generalizing q with
  | nil => simp [serRun, serStep_checksum]
  | cons b p ih =>
    have hrest := ih (q := q ++ [b])
    rw [List.append_assoc, List.singleton_append] at hrest
    rw [List.length_cons, serRun, serStep_payload, hrest, List.cons_append]

theorem serialize_buildFrame (h : buildFrame c a p = .ok f) : (serialize c a p).1 = f := by
  obtain ⟨-, -, -, rfl⟩ := buildFrame_ok_iff.1 h
  unfold serialize frameLen dataSection
  split
  · exact serRun_header
  · have hdata := serRun_data (c := c) (a := a) (q := []) (p := p)
    rw [List.nil_append] at hdata
    exact serRun_header.trans (congrArg _ hdata)

/-! ### The deserializer -/

/-- After an error verdict the bytes that follow change nothing (R143). -/
theorem desFold_of_verdict {e : ErrKind} (h : d.verdict = some e) : raw.foldl (desStep n) d = d := by
  induction raw with
  | nil => rfl
  | cons b raw ih => rw [List.foldl_cons, desStep, h]; exact ih

/-- The bytes 1 to 4 are passed over (R143). -/
theorem desFold_header (hi : 1 ≤ i) (hhdr : i + hdr.length ≤ 5) :
    hdr.foldl (desStep n) { st := ⟨i, acc⟩ } = { st := ⟨i + hdr.length, acc⟩ } := by
  induction hdr generalizing i with
  | nil => rfl
  | cons b hdr ih =>
    rw [List.length_cons] at hhdr ⊢
    have hstep : desStep n { st := ⟨i, acc⟩ } b = { st := ⟨i + 1, acc⟩ } := by
      simp [desStep, show i ≠ 0 by omega, show i < 5 by omega]
    rw [List.foldl_cons, hstep, ih (by omega) (by omega), Nat.add_right_comm, Nat.add_assoc]

/-- The deserializer in the data section, the bytes `q` of the payload delivered: `ACC_S` is set to 0 with the first of them. -/
def Des.inData (q : List Byte) (acc : Byte) : Des := { st := ⟨q.length + 5, acc⟩, payload := q }

theorem Des.accS_inData (hacc : q ≠ [] → acc = csum8 q) : (if q = [] then 0#8 else acc) = csum8 q := by
  split
  next hq => rw [hq]; rfl
  next hq => exact hacc hq

theorem desStep_payload (b : Byte) (hacc : q ≠ [] → acc = csum8 q) (hn : q.length + 6 < n) :
    desStep n (.inData q acc) b = .inData (q ++ [b]) (csum8 (q ++ [b])) := by
  have hne : q.length + 5 + 1 ≠ n := by omega
  simp [desStep, Des.inData, Des.accS_inData hacc, hne, csum8_concat]

theorem desStep_checksum (hacc : q ≠ [] → acc = csum8 q) (hn : n = q.length + 6) :
    (desStep n (.inData q acc) x).payload = q ∧
      (desStep n (.inData q acc) x).verdict = if x = csum8 q then none else some .checksum := by
  by_cases hx : x = csum8 q <;> simp [desStep, Des.inData, Des.accS_inData hacc, hn, hx]

/-- The rest of the data section, once the bytes `q` of the payload have been delivered (R143). -/
theorem desFold_data (hacc : q ≠ [] → acc = csum8 q) (hn : n = q.length + p.length + 6) :
    ((p ++ [x]).foldl (desStep n) (.inData q acc)).payload = q ++ p ∧
      ((p ++ [x]).foldl (desStep n) (.inData q acc)).verdict = if x = csum8 (q ++ p) then none else some .checksum := by
  induction p generalizing q acc with
  | nil => simpa using desStep_checksum hacc hn
  | cons b p ih =>
    rw [List.length_cons] at hn
    rw [List.cons_append, List.foldl_cons, desStep_payload b hacc (by omega)]
    simpa using ih (q := q ++ [b]) (fun _ => rfl) (by simp; omega)

theorem deserialize_of_length (h : raw.length = n) :
    deserialize raw n = (raw.foldl (desStep n) {}).verdict.elim (.ok (raw.foldl (desStep n) {}).payload) .error := by
  unfold deserialize desRun
  rw [if_pos h]
  cases (raw.foldl (desStep n) {}).verdict <;> rfl

theorem desFold_marker : (marker :: raw).foldl (desStep n) {} = raw.foldl (desStep n) { st := ⟨1, 0⟩ } := rfl

theorem deserialize_invalidHeader (hm : m ≠ marker) (h : (m :: raw).length = n) :
    deserialize (m :: raw) n = .error .invalidHeader := by
  have hfirst : desStep n {} m = { verdict := some .invalidHeader } := by simp [desStep, hm]
  rw [deserialize_of_length h, List.foldl_cons, hfirst, desFold_of_verdict rfl]
  rfl

theorem deserialize_header (hhdr : hdr.length ≤ 4) :
    deserialize (m :: hdr) (hdr.length + 1) = if m = marker then .ok [] else .error .invalidHeader := by
  split
  next hm =>
    subst hm
    have hfold : (marker :: hdr).foldl (desStep (hdr.length + 1)) {} = { st := ⟨1 + hdr.length, 0⟩ } :=
      desFold_header (Nat.le_refl 1) (by omega)
    rw [deserialize_of_length List.length_cons, hfold]
    rfl
  next hm => exact deserialize_invalidHeader hm rfl

theorem deserialize_response (hhdr : hdr.length = 4) :
    deserialize (m :: (hdr ++ (p ++ [x]))) (p.length + 6) =
      if m = marker then if x = csum8 p then .ok p else .error .checksum else .error .invalidHeader := by
  split
  next hm =>
    subst hm
    have hheader : hdr.foldl (desStep (p.length + 6)) { st := ⟨1, 0⟩ } = .inData [] 0 := by
      rw [desFold_header (Nat.le_refl 1) (by omega), hhdr]
      rfl
    obtain ⟨hpayload, hverdict⟩ :=
      desFold_data (q := []) (acc := 0) (p := p) (x := x) (n := p.length + 6) (by simp) (by simp)
    rw [deserialize_of_length (response_length hhdr), desFold_marker, List.foldl_append, hheader, hpayload, hverdict,
      List.nil_append]
    split <;> rfl
  next hm => exact deserialize_invalidHeader hm (response_length hhdr)

theorem deserialize_eq_validateFrame (h : raw.length = n) (hn : 1 ≤ n) : deserialize raw n = validateFrame raw n := by
  subst h
  obtain ⟨m, hdr, hhdr, rfl⟩ | ⟨m, hdr, p, x, hhdr, rfl⟩ := response_shape hn
  · rw [List.length_cons, deserialize_header hhdr, validateFrame_header hhdr]
  · rw [response_length hhdr, deserialize_response hhdr, validateFrame_response hhdr]

end Sys2Proof.Machine

namespace Sys2Proof.Proofs

open Sys2Proof Sys2Proof.Machine

/-- Settles O8: header, then data section by induction on the payload bytes still to come, on both sides. -/
theorem streamingFormAgrees : Obligations.StreamingFormAgrees := by
  unfold Obligations.StreamingFormAgrees
  exact ⟨fun c a p f => serialize_buildFrame, fun raw n => deserialize_eq_validateFrame⟩

end Sys2Proof.Proofs
end

section
/-! PROOF. The wire commands at the host port (`42_cmd_actions_reads.md` R150 to R162): each runs `encodeWire`, so what it frames
and what it refuses is said once of `encodeWire`, whatever the command, the phase and the payload. -/

namespace Sys2Proof.Machine

variable {i : Instr} {s : State} {k : AxisIx} {c a : Byte} {p f : List Byte} {pl : Except RefuseReason (List Byte)}

theorem State.usableId_eq_none_of_unset (h : (s.axis k).axisId = none) : s.usableId k = none := by
  refine Option.eq_none_iff_forall_ne_some.2 fun a hid => ?_
  obtain ⟨hset, -⟩ := State.usableId_eq_some.1 hid
  simp [h] at hset

/-- No id to send with: refused before the payload is looked at (assumptions 20, 26). -/
theorem encodeWire_of_usableId_none (hid : s.usableId k = none) : encodeWire s k c pl = s.answer (.refused .config) := by
  simp only [encodeWire, hid]

theorem encodeWire_of_buildFrame (hid : s.usableId k = some a) (hf : buildFrame c a p = .ok f) :
    encodeWire s k c (.ok p) =
      { s with host := { s.host with txbuf := f, st := (serialize c a p).2 } }.answer (.ok (.bytes f)) := by
  simp only [encodeWire, hid, Codec.build_eq hf]

theorem frames_of_exec_encodeWire (hid : s.usableId k = some a) (h1 : 1 ≤ a.toNat) (h32 : a.toNat ≤ 32) (hp : p.length ≤ 255)
    (hexec : exec i s = .next (encodeWire s k c (.ok p))) : Frames i s (frameBytes c a p) := by
  have hframe := buildFrame_frameBytes (c := c) hp h1 h32
  exact ⟨_, hexec.trans (congrArg _ (encodeWire_of_buildFrame hid hframe))⟩

theorem refuses_of_exec_encodeWire (hunset : (s.axis k).axisId = none) (hexec : exec i s = .next (encodeWire s k c pl)) :
    Refuses i s .config :=
  hexec.trans (congrArg _ (encodeWire_of_usableId_none (State.usableId_eq_none_of_unset hunset)))

/-- A frame without a payload is its five header bytes (R91). -/
theorem frameBytes_nil : frameBytes c a [] = [0x3E, c, a, 0x00, 0x3E + c + a] := by
  simp [frameBytes]

end Sys2Proof.Machine

namespace Sys2Proof.Proofs

open Sys2Proof Sys2Proof.Machine

/-- Settles O14: each of the twelve encodes the empty payload under its command id. -/
theorem noPayloadCommands : Obligations.NoPayloadCommands := by
  unfold Obligations.NoPayloadCommands
  refine fun k s => ⟨fun a hid h1 h32 => ?frames, fun hunset => ?refuses⟩
  case frames =>
    have frames {i : Instr} {c : Byte} (hexec : exec i s = .next (encodeWire s k c (.ok []))) :
        Frames i s [0x3E, c, a, 0x00, 0x3E + c + a] :=
      frameBytes_nil ▸ frames_of_exec_encodeWire hid h1 h32 (Nat.zero_le 255) hexec
    exact ⟨frames exec_enable, frames exec_disable, frames exec_stop, frames exec_clrerr, frames exec_zero, frames exec_zero95,
      frames exec_clrturn, frames exec_rdstat1, frames exec_rdstat2, frames exec_rdenc, frames exec_rdmtang,
      frames exec_rdstang⟩
  case refuses =>
    have refuses {i : Instr} {c : Byte} (hexec : exec i s = .next (encodeWire s k c (.ok []))) : Refuses i s .config :=
      refuses_of_exec_encodeWire hunset hexec
    simp only [List.forall_mem_cons, List.not_mem_nil, false_implies, implies_true, and_true]
    exact ⟨refuses exec_enable, refuses exec_disable, refuses exec_stop, refuses exec_clrerr, refuses exec_zero,
      refuses exec_zero95, refuses exec_clrturn, refuses exec_rdstat1, refuses exec_rdstat2, refuses exec_rdenc,
      refuses exec_rdmtang, refuses exec_rdstang⟩

end Sys2Proof.Proofs
end

section
/-! PROOF. The commands with a payload at the host port (`43_cmd_scalar.md` R170 to R182): each payload is one conditional
equation, its bytes in range and a refusal out of it, and `encodeWire` carries that condition over to frame or refusal. -/

namespace Sys2Proof.Machine

variable {i : Instr} {s : State} {k : AxisIx} {c a : Byte} {p pa pb raw : List Byte} {e : RefuseReason}
  {pl left right : Except RefuseReason (List Byte)} {P Q : Prop} [Decidable P] [Decidable Q]

/-! ### Payloads -/

theorem scaleIntBy_eq (r : ScaleRound) (x f : Rat) (lo hi : Int) (n : Nat) :
    scaleIntBy r x f lo hi n =
      if lo ≤ toIntBy r (x * f) ∧ toIntBy r (x * f) ≤ hi then .ok (leInt n (toIntBy r (x * f)))
      else .error .encodeRange := by
  split
  next hz => exact scaleIntBy_ok_iff.2 ⟨hz, rfl⟩
  next hz => exact scaleIntBy_error hz

/-- Two parts that refuse for one reason: the whole needs both conditions (R102). -/
theorem joinPayload_eq (hleft : left = if P then .ok pa else .error e) (hright : right = if Q then .ok pb else .error e) :
    joinPayload left right = if P ∧ Q then .ok (pa ++ pb) else .error e := by
  subst hleft hright
  by_cases hP : P
  · by_cases hQ : Q <;> simp [joinPayload, hP, hQ]
  · simp [joinPayload, hP]

theorem scaleI32By_eq (r : ScaleRound) (x : Rat) :
    scaleI32By r x =
      if -2 ^ 31 ≤ toIntBy r (x * 100) ∧ toIntBy r (x * 100) ≤ 2 ^ 31 - 1 then .ok (leInt 4 (toIntBy r (x * 100)))
      else .error .encodeRange := by
  rw [scaleI32By, scaleIntBy_eq]
  norm_num

theorem scaleI64By_eq (r : ScaleRound) (x : Rat) :
    scaleI64By r x =
      if -2 ^ 63 ≤ toIntBy r (x * 100) ∧ toIntBy r (x * 100) ≤ 2 ^ 63 - 1 then .ok (leInt 8 (toIntBy r (x * 100)))
      else .error .encodeRange := by
  rw [scaleI64By, scaleIntBy_eq]
  norm_num

theorem speedPayload_eq (w : Rat) :
    speedPayload w =
      if -2 ^ 31 ≤ toInt (w * 100) ∧ toInt (w * 100) ≤ 2 ^ 31 - 1 then .ok (leInt 4 (toInt (w * 100)))
      else .error .encodeRange :=
  scaleI32By_eq Config.scaleRound w

theorem incposPayload_eq (d : Rat) :
    incposPayload d =
      if -2 ^ 31 ≤ toInt (d * 100) ∧ toInt (d * 100) ≤ 2 ^ 31 - 1 then .ok (leInt 4 (toInt (d * 100)))
      else .error .encodeRange :=
  scaleI32By_eq Config.scaleRound d

theorem posPayload_eq (th : Rat) :
    posPayload th =
      if -2 ^ 63 ≤ toInt (th * 100) ∧ toInt (th * 100) ≤ 2 ^ 63 - 1 then .ok (leInt 8 (toInt (th * 100)))
      else .error .encodeRange :=
  scaleI64By_eq Config.scaleRound th

/-- The direction byte and the angle refuse for one reason, so that together they are one condition (R101, R176). -/
theorem scposPayload_eq (dir : Byte) (ang : Rat) :
    scposPayload dir ang =
      if (dir = 0 ∨ dir = 1) ∧ 0 ≤ toInt (ang * 100) ∧ toInt (ang * 100) ≤ 65535 then
        .ok ([dir] ++ leInt 2 (toInt (ang * 100)) ++ [0x00])
      else .error .encodeRange := by
  unfold scposPayload singleCirclePayloadBy
  by_cases hdir : dir = 0 ∨ dir = 1
  · by_cases hang : 0 ≤ toInt (ang * 100) ∧ toInt (ang * 100) ≤ 65535
    · have hu16 : scaleU16By Config.scaleRound ang = .ok (leInt 2 (toInt (ang * 100))) := scaleIntBy_ok_iff.2 ⟨hang, rfl⟩
      rw [if_neg (by tauto), if_pos ⟨hdir, hang⟩, hu16]
      rfl
    · have hu16 : scaleU16By Config.scaleRound ang = .error .encodeRange := scaleIntBy_error hang
      rw [if_neg (by tauto), if_neg fun h => hang h.2, hu16]
  · rw [if_pos (by tauto), if_neg fun h => hdir h.1]

theorem openloopPayload_of_pos (h : 1 ≤ raw.length) : openloopPayload raw = .ok raw := if_neg (by omega)

theorem exec_openloop_of_pos (h : 1 ≤ raw.length) :
    exec (.openloop k raw) s = .next (encodeWire s k 0xA0 (.ok raw)) := by
  rw [exec_openloop, execOpenloop, openloopPayload_of_pos h]

theorem exec_openloop_nil : exec (.openloop k []) s = .next (encodeWire s k 0xA0 (.error .encodeRange)) := rfl

/-! ### What `encodeWire` frames and refuses -/

/-- The statements' lists of four commands, one by one. -/
theorem forall_mem_four {motive : Instr → Prop} {i₁ i₂ i₃ i₄ : Instr} :
    (∀ i ∈ [i₁, i₂, i₃, i₄], motive i) ↔ motive i₁ ∧ motive i₂ ∧ motive i₃ ∧ motive i₄ := by
  simp

/-- A payload without an encoding: its reason is handed over. -/
theorem refuses_of_exec_encodeWire_error (hid : s.usableId k = some a)
    (hexec : exec i s = .next (encodeWire s k c (.error e))) : Refuses i s e :=
  hexec.trans (congrArg _ (by simp only [encodeWire, hid]))

/-- A payload too long for the length byte: BUILD refuses. -/
theorem refuses_of_exec_encodeWire_long (hid : s.usableId k = some a) (hp : 255 < p.length)
    (hexec : exec i s = .next (encodeWire s k c (.ok p))) : Refuses i s .encodeRange := by
  have hbuild : s.host.build c a p = .error .encodeRange := by simp only [Codec.build, buildFrame_refused (.inl hp)]
  exact hexec.trans (congrArg _ (by simp only [encodeWire, hid, hbuild]))

/-- The condition of the payload is the condition of the frame. -/
theorem frames_or_refuses_of_exec_encodeWire (hid : s.usableId k = some a) (h1 : 1 ≤ a.toNat) (h32 : a.toNat ≤ 32)
    (hexec : exec i s = .next (encodeWire s k c pl)) (hpl : pl = if P then .ok p else .error e) (hp : p.length ≤ 255) :
    if P then Frames i s (frameBytes c a p) else Refuses i s e := by
  subst hpl
  split
  next hP => exact frames_of_exec_encodeWire hid h1 h32 hp (by rwa [if_pos hP] at hexec)
  next hP => exact refuses_of_exec_encodeWire_error hid (by rwa [if_neg hP] at hexec)

end Sys2Proof.Machine

namespace Sys2Proof.Proofs

open Sys2Proof Sys2Proof.Machine

/-- Settles O15: each encodes the bytes it is given, which OPENLOOP refuses when there are none and BUILD when there are more
than 255. -/
theorem rawPayloadCommands : Obligations.RawPayloadCommands := by
  unfold Obligations.RawPayloadCommands
  refine fun k raw s => ⟨fun a hid h1 h32 => ⟨?openloop, ?param, ?empty, ?long⟩, fun hunset => ?unset⟩
  case openloop =>
    intro hpos hlen
    exact frames_of_exec_encodeWire hid h1 h32 hlen (exec_openloop_of_pos hpos)
  case param =>
    intro hlen
    exact ⟨frames_of_exec_encodeWire hid h1 h32 hlen exec_paramrd, frames_of_exec_encodeWire hid h1 h32 hlen exec_paramwrRam,
      frames_of_exec_encodeWire hid h1 h32 hlen exec_paramwrRom⟩
  case empty =>
    rintro rfl
    exact refuses_of_exec_encodeWire_error hid exec_openloop_nil
  case long =>
    intro hlong
    exact forall_mem_four.2 ⟨refuses_of_exec_encodeWire_long hid hlong (exec_openloop_of_pos (by omega)),
      refuses_of_exec_encodeWire_long hid hlong exec_paramrd, refuses_of_exec_encodeWire_long hid hlong exec_paramwrRam,
      refuses_of_exec_encodeWire_long hid hlong exec_paramwrRom⟩
  case unset =>
    exact forall_mem_four.2 ⟨refuses_of_exec_encodeWire hunset exec_openloop, refuses_of_exec_encodeWire hunset exec_paramrd,
      refuses_of_exec_encodeWire hunset exec_paramwrRam, refuses_of_exec_encodeWire hunset exec_paramwrRom⟩

/-- Settles O16: TORQUE always has a payload; the others have the one of their scaled integer. -/
theorem scalarCommands : Obligations.ScalarCommands := by
  unfold Obligations.ScalarCommands
  refine fun k x s => ⟨fun a hid h1 h32 => ⟨?torque, ?i32, ?i64⟩, fun hunset => ?unset⟩
  case torque => exact frames_of_exec_encodeWire hid h1 h32 (by simp) exec_torque
  case i32 =>
    have hspeed := frames_or_refuses_of_exec_encodeWire hid h1 h32 exec_speed (speedPayload_eq x) (by simp)
    have hincpos := frames_or_refuses_of_exec_encodeWire hid h1 h32 exec_incpos (incposPayload_eq x) (by simp)
    split
    next hz => exact ⟨by rwa [if_pos hz] at hspeed, by rwa [if_pos hz] at hincpos⟩
    next hz => exact ⟨by rwa [if_neg hz] at hspeed, by rwa [if_neg hz] at hincpos⟩
  case i64 => exact frames_or_refuses_of_exec_encodeWire hid h1 h32 exec_pos (posPayload_eq x) (by simp)
  case unset =>
    exact forall_mem_four.2 ⟨refuses_of_exec_encodeWire hunset exec_torque, refuses_of_exec_encodeWire hunset exec_speed,
      refuses_of_exec_encodeWire hunset exec_incpos, refuses_of_exec_encodeWire hunset exec_pos⟩

/-- Settles O17: a payload of several parts is `joinPayload_eq` of theirs; for SCPOS and SCPOSSPD the two conditions are then
taken apart. -/
theorem compoundCommands : Obligations.CompoundCommands := by
  unfold Obligations.CompoundCommands
  refine fun k x w dir s => ⟨fun a hid h1 h32 => ⟨?posspd, ?incposspd, ?singleCircle⟩, fun hunset => ?unset⟩
  case posspd =>
    exact frames_or_refuses_of_exec_encodeWire hid h1 h32 exec_posspd
      (joinPayload_eq (posPayload_eq x) (speedPayload_eq w)) (by simp)
  case incposspd =>
    exact frames_or_refuses_of_exec_encodeWire hid h1 h32 exec_incposspd
      (joinPayload_eq (incposPayload_eq x) (speedPayload_eq w)) (by simp)
  case singleCircle =>
    have hscpos := frames_or_refuses_of_exec_encodeWire hid h1 h32 exec_scpos (scposPayload_eq dir x) (by simp)
    have hscposspd := frames_or_refuses_of_exec_encodeWire hid h1 h32 exec_scposspd
      (joinPayload_eq (scposPayload_eq dir x) (speedPayload_eq w)) (by simp)
    split
    next hcircle =>
      simp only [hcircle, true_and, and_self, if_true] at hscpos hscposspd
      exact ⟨hscpos, hscposspd⟩
    next hcircle =>
      rw [if_neg hcircle] at hscpos
      rw [if_neg fun h => hcircle h.1] at hscposspd
      exact ⟨hscpos, hscposspd⟩
  case unset =>
    exact forall_mem_four.2 ⟨refuses_of_exec_encodeWire hunset exec_posspd, refuses_of_exec_encodeWire hunset exec_incposspd,
      refuses_of_exec_encodeWire hunset exec_scpos, refuses_of_exec_encodeWire hunset exec_scposspd⟩

end Sys2Proof.Proofs
end

section
/-! PROOF. The response decoders at the host port (`44_decoders.md` R195 to R198): each is one conditional equation on the
length of its payload, and reads its fields where their little-endian bytes stand. -/

namespace Sys2Proof.Machine

variable {buf pre mid post pl : List Byte} {off n : Nat} {s : State}

/-! ### Fields of a buffer -/

theorem memRead_append (hpre : pre.length = off) (hmid : mid.length = n) :
    memRead (pre ++ mid ++ post) off n = leNat mid := by
  subst hpre hmid
  simp [memRead]

/-- A field is the word whose bytes stand at its place (R11). -/
theorem ofNat_memRead_leBytes (pre post : List Byte) (x : BitVec (8 * n)) (hbuf : buf = pre ++ leBytes n x.toNat ++ post)
    (hpre : pre.length = off) : BitVec.ofNat (8 * n) (memRead buf off n) = x := by
  have hpow : (256 : Nat) ^ n = 2 ^ (8 * n) := (pow_mul 2 8 n).symm
  rw [hbuf, memRead_append hpre (leBytes_length n _), leNat_leBytes, hpow, Nat.mod_eq_of_lt x.isLt, BitVec.ofNat_toNat,
    BitVec.setWidth_eq]

theorem memRead_lt (buf : List Byte) (off n : Nat) : memRead buf off n < 256 ^ n :=
  calc memRead buf off n < 256 ^ ((buf.drop off).take n).length := leNat_lt _
    _ ≤ 256 ^ n := Nat.pow_le_pow_right (by decide) (List.length_take_le n _)

/-! ### What each decoder hands over -/

theorem execDecMtang_eq :
    execDecMtang pl s =
      if pl.length = 8 then
        .next (s.answer (.ok (.angle64 (BitVec.ofNat 64 (memRead pl 0 8))
          (((BitVec.ofNat 64 (memRead pl 0 8)).toInt : Rat) / 100))))
      else .next (s.answer (.refused .decodeLength)) := by
  unfold execDecMtang decMtang
  by_cases hlen : pl.length = 8
  · simp only [if_pos hlen, hundredths]
  · simp only [if_neg hlen]

theorem execDecStat2_eq :
    execDecStat2 pl s =
      if pl.length = 7 then
        .next (s.answer (.ok (.stat2
          { temp := BitVec.ofNat 8 (memRead pl 0 1), cur := BitVec.ofNat 16 (memRead pl 1 2),
            spd := BitVec.ofNat 16 (memRead pl 3 2), enc := BitVec.ofNat 16 (memRead pl 5 2) })))
      else .next (s.answer (.refused .decodeLength)) := by
  unfold execDecStat2 decStat2
  by_cases hlen : pl.length = 7
  · simp only [if_pos hlen]
  · simp only [if_neg hlen]

/-- Four bytes are below `2 ^ 32`, so that the angle is the number read (R198). -/
theorem execDecStang_eq :
    execDecStang pl s =
      if pl.length = 4 then
        .next (s.answer (.ok (.angle32 (BitVec.ofNat 32 (memRead pl 0 4)) ((memRead pl 0 4 : Rat) / 100))))
      else .next (s.answer (.refused .decodeLength)) := by
  unfold execDecStang decStang
  by_cases hlen : pl.length = 4
  · have hnat : (BitVec.ofNat 32 (memRead pl 0 4)).toNat = memRead pl 0 4 := Nat.mod_eq_of_lt (memRead_lt pl 0 4)
    simp only [if_pos hlen, hundredths, hnat, Int.cast_natCast]
  · simp only [if_neg hlen]

/-! ### The numbers whose bytes are read -/

theorem decMtang_leBytes (x : BitVec 64) : decMtang (leBytes 8 x.toNat) = some x := by
  rw [decMtang, if_pos (leBytes_length 8 _)]
  exact congrArg some (ofNat_memRead_leBytes (n := 8) [] [] x (by simp) rfl)

theorem decStang_leBytes (x : BitVec 32) : decStang (leBytes 4 x.toNat) = some x := by
  rw [decStang, if_pos (leBytes_length 4 _)]
  exact congrArg some (ofNat_memRead_leBytes (n := 4) [] [] x (by simp) rfl)

theorem decStat2_leBytes (temp : BitVec 8) (cur spd enc : BitVec 16) :
    decStat2 (leBytes 1 temp.toNat ++ leBytes 2 cur.toNat ++ leBytes 2 spd.toNat ++ leBytes 2 enc.toNat) =
      some ⟨temp, cur, spd, enc⟩ := by
  rw [decStat2, if_pos (by simp), Option.some.injEq, Stat2.mk.injEq]
  refine ⟨?tempField, ?curField, ?spdField, ?encField⟩
  case tempField =>
    exact ofNat_memRead_leBytes (n := 1) [] (leBytes 2 cur.toNat ++ leBytes 2 spd.toNat ++ leBytes 2 enc.toNat) temp
      (by simp) rfl
  case curField =>
    exact ofNat_memRead_leBytes (n := 2) (leBytes 1 temp.toNat) (leBytes 2 spd.toNat ++ leBytes 2 enc.toNat) cur
      (by simp) rfl
  case spdField =>
    exact ofNat_memRead_leBytes (n := 2) (leBytes 1 temp.toNat ++ leBytes 2 cur.toNat) (leBytes 2 enc.toNat) spd rfl rfl
  case encField =>
    exact ofNat_memRead_leBytes (n := 2) (leBytes 1 temp.toNat ++ leBytes 2 cur.toNat ++ leBytes 2 spd.toNat) [] enc
      (by simp) rfl

end Sys2Proof.Machine

namespace Sys2Proof.Proofs

open Sys2Proof Sys2Proof.Machine

/-- Settles O18: each decoder by its equation, at its length and at every other, and on the bytes of its fields. -/
theorem decodersReadTheirFields : Obligations.DecodersReadTheirFields := by
  unfold Obligations.DecodersReadTheirFields
  refine ⟨fun o => ⟨rfl, rfl, rfl⟩,
    fun pl s => ⟨?mtang, ?mtangLength, ?stat2, ?stat2Length, ?stang, ?stangLength⟩,
    decMtang_leBytes, decStang_leBytes, decStat2_leBytes⟩
  case mtang => exact fun hlen => exec_decMtang.trans (execDecMtang_eq.trans (if_pos hlen))
  case mtangLength => exact fun hlen => exec_decMtang.trans (execDecMtang_eq.trans (if_neg hlen))
  case stat2 => exact fun hlen => exec_decStat2.trans (execDecStat2_eq.trans (if_pos hlen))
  case stat2Length => exact fun hlen => exec_decStat2.trans (execDecStat2_eq.trans (if_neg hlen))
  case stang => exact fun hlen => exec_decStang.trans (execDecStang_eq.trans (if_pos hlen))
  case stangLength => exact fun hlen => exec_decStang.trans (execDecStang_eq.trans (if_neg hlen))

end Sys2Proof.Proofs
end

section
/-! PROOF. The quantizer (`45_quantizer.md` R211 to R214). The clamp is the lattice's, the exact value is increasing from 0 to
`2^bits - 1`, and a rounding to the nearest integer keeps order and leaves integers alone; the range, the ends and the half step
follow. -/

namespace Sys2Proof.Machine

variable {tie : QRoundTie} {x x₁ x₂ mn mx q q₁ q₂ : Rat} {bits : Nat} {s : State}

/-! ### Rounding to the nearest -/

theorem abs_qroundBy_sub_le (tie : QRoundTie) (q : Rat) : |(qroundBy tie q : Rat) - q| ≤ 1 / 2 := by
  cases tie with
  | halfEven => exact Proofs.abs_nearestEvenQ_sub_le q
  | halfUp => exact Proofs.abs_nearestUpQ_sub_le q

/-- Any rounding to a nearest integer keeps order: two results in the wrong order are one apart, each half away from its
argument, so that the arguments are equal. -/
theorem qroundBy_mono (tie : QRoundTie) (h : q₁ ≤ q₂) : qroundBy tie q₁ ≤ qroundBy tie q₂ := by
  by_contra! hlt
  have hstep : (qroundBy tie q₂ : Rat) + 1 ≤ qroundBy tie q₁ := by exact_mod_cast hlt
  obtain ⟨-, hup⟩ := abs_le.1 (abs_qroundBy_sub_le tie q₁)
  obtain ⟨hdown, -⟩ := abs_le.1 (abs_qroundBy_sub_le tie q₂)
  obtain rfl : q₁ = q₂ := by linarith
  exact lt_irrefl _ hlt

theorem qroundBy_natCast (tie : QRoundTie) (n : Nat) : qroundBy tie n = n := by
  cases tie with
  | halfEven => exact toIntBy_intCast .nearestEven n
  | halfUp => exact toIntBy_intCast .nearestUp n

/-! ### The exact value -/

theorem clampQ_eq_max_min (x : Rat) (h : mn ≤ mx) : clampQ x mn mx = max mn (min x mx) := by
  obtain hx | hx := le_total x mn
  · rw [clampQ_of_le hx h, max_eq_left (min_le_of_left_le hx)]
  obtain hx' | hx' := le_total mx x
  · rw [clampQ_of_ge hx' h, min_eq_right hx', max_eq_right h]
  · rw [min_eq_left hx', max_eq_right hx, clampQ, if_neg hx.not_gt, if_neg hx'.not_gt]

theorem quantExact_mono (hmn : mn < mx) (h : x₁ ≤ x₂) : quantExact x₁ mn mx bits ≤ quantExact x₂ mn mx bits := by
  have hwidth : 0 < mx - mn := sub_pos.2 hmn
  have hclamp : clampQ x₁ mn mx ≤ clampQ x₂ mn mx := by
    rw [clampQ_eq_max_min x₁ hmn.le, clampQ_eq_max_min x₂ hmn.le]
    gcongr
  unfold quantExact
  gcongr

theorem quantExact_of_le (hmn : mn < mx) (h : x ≤ mn) : quantExact x mn mx bits = 0 := by
  simp [quantExact, clampQ_of_le h hmn.le]

theorem quantExact_of_ge (hmn : mn < mx) (h : mx ≤ x) : quantExact x mn mx bits = (2 ^ bits - 1 : Nat) := by
  rw [quantExact, clampQ_of_ge h hmn.le, mul_div_cancel_left₀ _ (sub_pos.2 hmn).ne']

/-! ### The quantized value -/

theorem qroundBy_quantExact_nonneg (tie : QRoundTie) (x : Rat) (bits : Nat) (hmn : mn < mx) :
    0 ≤ qroundBy tie (quantExact x mn mx bits) :=
  calc (0 : Int) = qroundBy tie (0 : Nat) := (qroundBy_natCast tie 0).symm
    _ = qroundBy tie (quantExact (min x mn) mn mx bits) := by rw [quantExact_of_le hmn (min_le_right x mn), Nat.cast_zero]
    _ ≤ qroundBy tie (quantExact x mn mx bits) := qroundBy_mono tie (quantExact_mono hmn (min_le_left x mn))

/-- The rounded value is a natural number, so that `quantBy` loses nothing of it. -/
theorem natCast_quantBy (tie : QRoundTie) (x : Rat) (bits : Nat) (hmn : mn < mx) :
    (quantBy tie x mn mx bits : Int) = qroundBy tie (quantExact x mn mx bits) :=
  Int.toNat_of_nonneg (qroundBy_quantExact_nonneg tie x bits hmn)

theorem quantBy_mono (tie : QRoundTie) (bits : Nat) (hmn : mn < mx) (h : x₁ ≤ x₂) :
    quantBy tie x₁ mn mx bits ≤ quantBy tie x₂ mn mx bits :=
  Int.toNat_le_toNat (qroundBy_mono tie (quantExact_mono hmn h))

theorem quantBy_of_le (hmn : mn < mx) (h : x ≤ mn) : quantBy tie x mn mx bits = 0 := by
  rw [quantBy, quantExact_of_le hmn h, ← Nat.cast_zero, qroundBy_natCast, Int.toNat_natCast]

theorem quantBy_of_ge (hmn : mn < mx) (h : mx ≤ x) : quantBy tie x mn mx bits = 2 ^ bits - 1 := by
  rw [quantBy, quantExact_of_ge hmn h, qroundBy_natCast, Int.toNat_natCast]

theorem quantBy_le (tie : QRoundTie) (x : Rat) (bits : Nat) (hmn : mn < mx) : quantBy tie x mn mx bits ≤ 2 ^ bits - 1 :=
  calc quantBy tie x mn mx bits ≤ quantBy tie (max x mx) mn mx bits := quantBy_mono tie bits hmn (le_max_left x mx)
    _ = 2 ^ bits - 1 := quantBy_of_ge hmn (le_max_right x mx)

/-- The quantized value fits its width. -/
theorem toNat_ofNat_quantBy (tie : QRoundTie) (x : Rat) (bits : Nat) (hmn : mn < mx) :
    (BitVec.ofNat bits (quantBy tie x mn mx bits)).toNat = quantBy tie x mn mx bits := by
  have hle := quantBy_le tie x bits hmn
  have hpos : 0 < 2 ^ bits := Nat.two_pow_pos bits
  exact Nat.mod_eq_of_lt (by omega)

/-! ### The inverse -/

theorem natCast_two_pow_sub_one (bits : Nat) : ((2 ^ bits - 1 : Nat) : Rat) = 2 ^ bits - 1 := by
  rw [Nat.cast_pred (Nat.two_pow_pos bits), Nat.cast_pow, Nat.cast_ofNat]

/-- In range, what DEQUANT misses is what the rounding moved, in units of the step. -/
theorem sub_dequant_eq (r : Nat) (hmn : mn < mx) (hbits : 1 ≤ bits) (hlo : mn ≤ x) (hhi : x ≤ mx) :
    x - dequant r mn mx bits = -((r - quantExact x mn mx bits) * ((mx - mn) / (2 ^ bits - 1))) := by
  have hwidth : mx - mn ≠ 0 := (sub_pos.2 hmn).ne'
  have htop : (2 : Rat) ^ bits - 1 ≠ 0 := (sub_pos.2 (one_lt_pow₀ one_lt_two (by omega))).ne'
  rw [dequant, quantExact, clampQ_eq_max_min x hmn.le, min_eq_left hhi, max_eq_right hlo, natCast_two_pow_sub_one]
  field_simp
  ring

/-! ### QUANT at the port -/

theorem quantChecked_eq (x mn mx : Rat) (bits : Nat) :
    quantChecked x mn mx bits =
      if mn < mx ∧ 1 ≤ bits ∧ bits ≤ 16 then .ok (quantBy Config.qroundTie x mn mx bits) else .error .quantRange := by
  unfold quantChecked
  by_cases hmn : mn < mx
  · by_cases hbits : 1 ≤ bits ∧ bits ≤ 16
    · rw [if_neg (not_not.2 hmn), if_neg (by omega), if_pos ⟨hmn, hbits⟩]
    · rw [if_neg (not_not.2 hmn), if_pos (by omega), if_neg fun h => hbits h.2]
  · rw [if_pos hmn, if_neg fun h => hmn h.1]

theorem exec_quant_of_ok {r : Nat} (h : quantChecked x mn mx bits = .ok r) :
    exec (.quant x mn mx bits) s =
      .next ({ s with qout := BitVec.ofNat 16 r }.answer (.ok (.word (BitVec.ofNat 16 r)))) := by
  rw [exec_quant, execQuant, h]

theorem refuses_quant_of_error {e : RefuseReason} (h : quantChecked x mn mx bits = .error e) :
    Refuses (.quant x mn mx bits) s e := by
  rw [Refuses, exec_quant, execQuant, h]

end Sys2Proof.Machine

namespace Sys2Proof.Proofs

open Sys2Proof Sys2Proof.Machine

/-- Settles O19: `quantChecked` by its one condition; the value is in range by `quantBy_le`. -/
theorem quantComputes : Obligations.QuantComputes := by
  unfold Obligations.QuantComputes
  refine ⟨fun _ => rfl, fun x mn mx bits s => ⟨fun hmn h1 h16 => ?value, fun hout => ?refused⟩⟩
  case value =>
    refine ⟨quantBy Config.qroundTie x mn mx bits, quantBy_le _ x bits hmn, ?_, exec_quant_of_ok ?_⟩
    · rw [natCast_quantBy _ x bits hmn, quantExact, natCast_two_pow_sub_one]
    · rw [quantChecked_eq, if_pos ⟨hmn, h1, h16⟩]
  case refused =>
    have hnot : ¬(mn < mx ∧ 1 ≤ bits ∧ bits ≤ 16) := fun ⟨hmn, _, _⟩ => hout.elim (· hmn) (by omega)
    exact refuses_quant_of_error (by rw [quantChecked_eq, if_neg hnot])

/-- Settles O20: the rounding of an increasing value, with its ends. -/
theorem quantMonotoneAndBounded : Obligations.QuantMonotoneAndBounded := by
  unfold Obligations.QuantMonotoneAndBounded
  intro tie mn mx bits hmn _ _
  exact ⟨fun x => quantBy_le tie x bits hmn, fun _ _ => quantBy_mono tie bits hmn,
    fun _ => ⟨quantBy_of_le hmn, quantBy_of_ge hmn⟩⟩

/-- Settles O21: the rounding moves the exact value by at most one half, which is half a step of the operand. -/
theorem dequantWithinHalfStep : Obligations.DequantWithinHalfStep := by
  unfold Obligations.DequantWithinHalfStep
  intro tie x mn mx bits hmn h1 _ hlo hhi
  have hround : |(quantBy tie x mn mx bits : Rat) - quantExact x mn mx bits| ≤ 1 / 2 := by
    rw [← Int.cast_natCast, natCast_quantBy tie x bits hmn]
    exact abs_qroundBy_sub_le tie _
  have hstep : 0 ≤ (mx - mn) / ((2 : Rat) ^ bits - 1) :=
    div_nonneg (sub_nonneg.2 hmn.le) (sub_nonneg.2 (one_le_pow₀ one_le_two))
  calc |x - dequant (quantBy tie x mn mx bits) mn mx bits|
      = |(quantBy tie x mn mx bits : Rat) - quantExact x mn mx bits| * ((mx - mn) / (2 ^ bits - 1)) := by
        rw [sub_dequant_eq _ hmn h1 hlo hhi, abs_neg, abs_mul, abs_of_nonneg hstep]
    _ ≤ 1 / 2 * ((mx - mn) / (2 ^ bits - 1)) := mul_le_mul_of_nonneg_right hround hstep
    _ = (mx - mn) / (2 * (2 ^ bits - 1)) := by rw [div_mul_div_comm, one_mul]

end Sys2Proof.Proofs
end

section
/-! PROOF. The impedance payload (`45_quantizer.md` R216 to R218, R222): a byte of `le_packed` is two nibbles of the word, and the
word and its five fields determine each other. -/

namespace Sys2Proof.Machine

/-! ### Nibbles -/

theorem toNat_extractLsb'_four {w : Nat} (x : BitVec w) (i : Nat) : (x.extractLsb' i 4).toNat = x.toNat / 2 ^ i % 16 := by
  rw [BitVec.extractLsb'_toNat, Nat.shiftRight_eq_div_pow]

/-- A byte by its two nibbles. -/
theorem ofNat_eq_append_nibbles {n : Nat} {hi lo : BitVec 4} (h : n % 256 = hi.toNat * 16 + lo.toNat) :
    BitVec.ofNat 8 n = hi ++ lo := by
  apply BitVec.eq_of_toNat_eq
  rw [BitVec.toNat_append, ← Nat.shiftLeft_add_eq_or_of_lt lo.isLt, Nat.shiftLeft_eq]
  exact h

/-! ### The word of `le_packed` -/

theorem ImpFields.toNat_lt (f : ImpFields) :
    f.p.toNat < 2 ^ 16 ∧ f.v.toNat < 2 ^ 12 ∧ f.kp.toNat < 2 ^ 12 ∧ f.kd.toNat < 2 ^ 12 ∧ f.t.toNat < 2 ^ 12 :=
  ⟨f.p.isLt, f.v.isLt, f.kp.isLt, f.kd.isLt, f.t.isLt⟩

theorem impWord_lt (f : ImpFields) : impWord f < 256 ^ 8 := by
  have hlt := f.toNat_lt
  unfold impWord
  omega

/-- The bytes of `le_packed`, by their nibbles (R218). -/
theorem packBy_lePacked (f : ImpFields) :
    packBy .lePacked f =
      [ f.p.extractLsb' 4 4 ++ f.p.extractLsb' 0 4, f.p.extractLsb' 12 4 ++ f.p.extractLsb' 8 4,
        f.v.extractLsb' 4 4 ++ f.v.extractLsb' 0 4, f.kp.extractLsb' 0 4 ++ f.v.extractLsb' 8 4,
        f.kp.extractLsb' 8 4 ++ f.kp.extractLsb' 4 4, f.kd.extractLsb' 4 4 ++ f.kd.extractLsb' 0 4,
        f.t.extractLsb' 0 4 ++ f.kd.extractLsb' 8 4, f.t.extractLsb' 8 4 ++ f.t.extractLsb' 4 4 ] := by
  have hlt := f.toNat_lt
  simp only [packBy, leBytes, List.cons.injEq, and_true]
  refine ⟨?_, ?_, ?_, ?_, ?_, ?_, ?_, ?_⟩
  all_goals
    apply ofNat_eq_append_nibbles
    simp only [toNat_extractLsb'_four, impWord]
    omega

theorem memRead_packBy_lePacked (f : ImpFields) : memRead (packBy .lePacked f) 0 8 = impWord f :=
  calc memRead (leBytes 8 (impWord f)) 0 8 = leNat (leBytes 8 (impWord f)) := by simp [memRead, List.take_of_length_le]
    _ = impWord f := by rw [leNat_leBytes, Nat.mod_eq_of_lt (impWord_lt f)]

/-- Each field's number stands at its place in the word (R222). -/
theorem unpackLe_packBy_lePacked (f : ImpFields) : unpackLe (packBy .lePacked f) = f := by
  have hlt := f.toNat_lt
  obtain ⟨p, v, kp, kd, t⟩ := f
  simp only [unpackLe, memRead_packBy_lePacked, ImpFields.mk.injEq]
  refine ⟨?_, ?_, ?_, ?_, ?_⟩
  all_goals
    apply BitVec.eq_of_toNat_eq
    simp only [BitVec.toNat_ofNat, impWord]
    omega

theorem impWord_unpackLe (pl : List Byte) : impWord (unpackLe pl) = memRead pl 0 8 := by
  have hlt := memRead_lt pl 0 8
  simp only [impWord, unpackLe, BitVec.toNat_ofNat]
  omega

theorem packBy_lePacked_unpackLe {pl : List Byte} (h : pl.length = 8) : packBy .lePacked (unpackLe pl) = pl :=
  calc leBytes 8 (impWord (unpackLe pl)) = leBytes 8 (memRead pl 0 8) := by rw [impWord_unpackLe]
    _ = leBytes pl.length (leNat pl) := by rw [memRead, List.drop_zero, List.take_of_length_le h.le, h]
    _ = pl := leBytes_leNat pl

end Sys2Proof.Machine

namespace Sys2Proof.Proofs

open Sys2Proof Sys2Proof.Machine

/-- Settles O22: the bytes by their nibbles; word and fields determine each other. -/
theorem lePackedLayout : Obligations.LePackedLayout :=
  ⟨rfl, packBy_lePacked, unpackLe_packBy_lePacked, fun _ => packBy_lePacked_unpackLe⟩

/-- Settles O23: every field's value fits its width, and `exec` hands over what it packs. -/
theorem imppackQuantizesAndPacks : Obligations.ImppackQuantizesAndPacks := by
  unfold Obligations.ImppackQuantizesAndPacks
  refine ⟨fun _ => rfl, fun p v kp kd t s => ⟨impFieldsBy Config.qroundTie p v kp kd t, ?p, ?v, ?kp, ?kd, ?t,
    impPayload_length p v kp kd t, exec_imppack⟩⟩
  all_goals exact toNat_ofNat_quantBy _ _ _ (by norm_num)

end Sys2Proof.Proofs
end

section
/-! PROOF. IMPEDANCE at the host port (`45_quantizer.md` R220): the FIREFORGET of the host with a legal axis id and a short
payload, in full (`46_session.md` R234), then the host's two buffers. -/

namespace Sys2Proof.Machine

variable {s t : State} {k : AxisIx} {a c : Byte} {p f : List Byte}

/-! ### A write of the host -/

/-- The host has written `f` on channel `k` after a discard, all of it or the part the draw lets through; meanwhile bytes have
arrived and time has passed (R63, R64, R66). -/
structure HostSent (k : AxisIx) (f : List Byte) (s t : State) : Prop where
  frame : HostOnly k s t
  wait : (t.axis k).wait = (s.axis k).wait
  rxq : (t.axis k).rxq = s.drawLink.1.arrive
  txh : (t.axis k).txh = (s.axis k).txh ++ sentPart s.drawLink.1 f
  now : t.now = s.now + s.drawLink.1.dt

/-- A write, and what happens outside its channel meanwhile. -/
theorem hostSent_chMeanwhile {cd : Codec} (ht : ChannelOnly k s t) (hn : t.now = s.now)
    (hk : t.axis k = { s.axis k with
      rxq := s.drawLink.1.arrive, txh := (s.axis k).txh ++ sentPart s.drawLink.1 f, codec := cd }) :
    HostSent k f s (chMeanwhile t k s.drawLink.1) := by
  obtain ⟨hframe, hnow, haxis⟩ := chMeanwhile_spec t k s.drawLink.1
  exact
    { frame := ht.hostOnly.trans hframe
      wait := by rw [haxis, hk]
      rxq := by rw [haxis, hk]
      txh := by rw [haxis, hk]
      now := by rw [hnow, hn] }

/-- A request of a legal axis and a short payload: the frame is written, and the draw decides how the write ends. -/
theorem request_sends (ha : (s.axis k).axisId = some a) (h1 : 1 ≤ a.toNat) (h32 : a.toNat ≤ 32) (hp : p.length ≤ 255) :
    ∃ t, HostSent k (frameBytes c a p) s (chMeanwhile t k s.drawLink.1) ∧
      (s.drawLink.1.sent = none → request s k c p = (.sent s.drawLink.1, t)) ∧
      ∀ j, s.drawLink.1.sent = some j → request s k c p = (.failed s.drawLink.1, t) := by
  have hbuild := buildFrame_frameBytes (c := c) hp h1 h32
  have hends := request_spec s k c p
  generalize request s k c p = r at hends ⊢
  obtain ⟨snt, t⟩ := r
  refine ⟨t, ?_⟩
  dsimp only at hends
  cases hends with
  | noId h => cases ha.symm.trans h
  | noFrame a' h hf =>
    cases ha.symm.trans h
    cases hbuild.symm.trans hf
  | failed a' f j t h hf hs ht hn hk =>
    cases ha.symm.trans h
    cases hbuild.symm.trans hf
    exact ⟨hostSent_chMeanwhile ht hn (by rw [hk, sentPart_of_some hs]), fun h => by simp [h] at hs, fun _ _ => rfl⟩
  | sent a' f t h hf hs ht hn hk =>
    cases ha.symm.trans h
    cases hbuild.symm.trans hf
    exact ⟨hostSent_chMeanwhile ht hn (by rw [hk, sentPart_of_none hs]), fun _ => rfl, fun j h => by simp [h] at hs⟩

/-! ### FIREFORGET of the host -/

/-- What FIREFORGET of the host leaves: the frame or a leading part of it is in `TXH[k]`, and a failed write is one record. -/
structure FireForgot (k : AxisIx) (f : List Byte) (s t : State) : Prop where
  eq : t = { s with axes := t.axes, rlog := t.rlog, now := t.now, links := t.links, drawn := t.drawn }
  other : ∀ j, j ≠ k → Receives (s.axis j) (t.axis j)
  axis : t.axis k = { s.axis k with rxq := (t.axis k).rxq, txh := (t.axis k).txh, codec := (t.axis k).codec }
  rxq : (t.axis k).rxq = s.drawLink.1.arrive
  now : t.now = s.now + s.drawLink.1.dt
  whole : s.drawLink.1.sent = none → (t.axis k).txh = (s.axis k).txh ++ f ∧ t.rlog = s.rlog
  part : ∀ j, s.drawLink.1.sent = some j →
    (t.axis k).txh = (s.axis k).txh ++ f.take j ∧ ∃ site, t.rlog = s.rlog ++ [.err 0 k site .transport]

theorem HostSent.axis (h : HostSent k f s t) :
    t.axis k = { s.axis k with rxq := (t.axis k).rxq, txh := (t.axis k).txh, codec := (t.axis k).codec } := by
  conv_lhs => rw [h.frame.2.2, h.wait]

theorem HostSent.fireForgot (h : HostSent k f s t) (hs : s.drawLink.1.sent = none) : FireForgot k f s t where
  eq := by
    conv_lhs => rw [h.frame.1]
    rw [h.frame.channels.rlog]
  other := h.frame.2.1
  axis := h.axis
  rxq := h.rxq
  now := h.now
  whole := fun _ => ⟨by rw [h.txh, sentPart_of_none hs], h.frame.channels.rlog⟩
  part := fun j hj => by simp [hs] at hj

theorem HostSent.fireForgot_report {j : Nat} (h : HostSent k f s t) (hs : s.drawLink.1.sent = some j) (site : Site) :
    FireForgot k f s (t.report (.err 0 k site .transport)) where
  eq := by
    conv_lhs => rw [h.frame.1]
    rw [State.report_rlog, h.frame.channels.rlog]
    rfl
  other := h.frame.2.1
  axis := h.axis
  rxq := h.rxq
  now := h.now
  whole := fun hn => by simp [hs] at hn
  part := fun i hi => by
    obtain rfl : j = i := Option.some.inj (hs.symm.trans hi)
    refine ⟨?_, site, ?_⟩
    · rw [State.axis_report, h.txh, sentPart_of_some hs]
    · rw [State.report_rlog, h.frame.channels.rlog]

/-- FIREFORGET of the host on a legal axis with a short payload is not refused (R234). -/
theorem hostFireForget_fireForgot (ha : (s.axis k).axisId = some a) (h1 : 1 ≤ a.toNat) (h32 : a.toNat ≤ 32)
    (hp : p.length ≤ 255) (site : Site) :
    ∃ t, hostFireForget s k c p site = (none, t) ∧ FireForgot k (frameBytes c a p) s t := by
  obtain ⟨t, hsent, hok, hfail⟩ := request_sends (c := c) ha h1 h32 hp
  cases hs : s.drawLink.1.sent with
  | none =>
    refine ⟨_, ?_, hsent.fireForgot hs⟩
    simp only [hostFireForget, hostTransact, hok hs, if_true]
  | some j =>
    refine ⟨_, ?_, hsent.fireForgot_report hs site⟩
    simp only [hostFireForget, hostTransact, hfail j hs]

theorem FireForgot.usableId (h : FireForgot k f s t) : t.usableId k = s.usableId k := by
  have hnax : t.nax = s.nax := by rw [h.eq]
  have hid : (t.axis k).axisId = (s.axis k).axisId := by rw [h.axis]
  rw [State.usableId, State.usableId, hnax, hid]

/-! ### IMPEDANCE -/

/-- IMPEDANCE of a legal axis id: FIREFORGET, then the payload in `IMPBUF` and the frame in the host's `TXBUF` and handed
over (R220; assumption 18). -/
theorem exec_impedance_sends (hb : s.busy = false) (hid : s.usableId k = some a) (h1 : 1 ≤ a.toNat) (h32 : a.toNat ≤ 32)
    (x v kp kd tq : Rat) :
    ∃ t, FireForgot k (frameBytes 0xA8 a (impPayload x v kp kd tq)) s t ∧
      exec (.impedance k x v kp kd tq) s =
        .next ({ t with
          impbuf := impPayload x v kp kd tq
          host := { t.host with
            txbuf := frameBytes 0xA8 a (impPayload x v kp kd tq)
            st := (serialize 0xA8 a (impPayload x v kp kd tq)).2 } }.answer
              (.ok (.bytes (frameBytes 0xA8 a (impPayload x v kp kd tq))))) := by
  have hlen : (impPayload x v kp kd tq).length ≤ 255 := by simp
  have hfree : s.channelRefusal k 0 = none := State.channelRefusal_eq_none.2 ⟨hb, ⟨a, hid⟩, by simp⟩
  obtain ⟨ha, -⟩ := State.usableId_eq_some.1 hid
  obtain ⟨t, hfire, hforgot⟩ :=
    hostFireForget_fireForgot (c := 0xA8) ha h1 h32 hlen (Config.hostSite s.rlog.length)
  refine ⟨t, hforgot, ?_⟩
  rw [exec_impedance]
  simp only [execImpedance, hfree, hfire]
  exact congrArg _ (encodeWire_of_buildFrame (hforgot.usableId.trans hid) (buildFrame_frameBytes hlen h1 h32))

end Sys2Proof.Machine

namespace Sys2Proof.Proofs

open Sys2Proof Sys2Proof.Machine

/-- Settles O24: FIREFORGET in full (`FireForgot`); what IMPEDANCE adds is no register of an axis. -/
theorem impedanceSendsItsFrame : Obligations.ImpedanceSendsItsFrame := by
  unfold Obligations.ImpedanceSendsItsFrame
  intro k p v kp kd tq s a hb hid h1 h32
  obtain ⟨t, hforgot, hexec⟩ := exec_impedance_sends hb hid h1 h32 p v kp kd tq
  refine ⟨_, hexec, rfl, rfl, rfl, impPayload_length p v kp kd tq, hforgot.rxq, hforgot.now, ?sent, hforgot.other,
    hforgot.axis, ?frame⟩
  case sent =>
    split
    next hs => exact hforgot.whole hs
    next j hs => exact hforgot.part j hs
  case frame =>
    conv_lhs => rw [hforgot.eq]
    rfl

end Sys2Proof.Proofs
end

section
/-! PROOF. TRANSACT and FIREFORGET at the host port (`46_session.md` R231 to R234): a host transaction is a write, and after a
write that succeeds a read whose draw is the second one; each end of the read is an equation about `hostRead`. -/

namespace Sys2Proof.Machine

variable {s t : State} {k : AxisIx} {a c : Byte} {p : List Byte} {n T : Nat}

/-! ### Draws -/

/-- The channel draws still to come in `t` are those of `s`. -/
structure SameDraws (s t : State) : Prop where
  links : t.links = s.links
  drawn : t.drawn = s.drawn

theorem SameDraws.drawLink (h : SameDraws s t) : t.drawLink.1 = s.drawLink.1 ∧ SameDraws s.drawLink.2 t.drawLink.2 := by
  obtain ⟨hlinks, hdrawn⟩ := h
  simp only [State.drawLink, hlinks, hdrawn]
  cases s.links with
  | nil => exact ⟨rfl, rfl, rfl⟩
  | cons d ds => exact ⟨rfl, rfl, rfl⟩

theorem sameDraws_chElsewhere (k : AxisIx) (l : List (AxisIx × List Byte)) (s : State) :
    SameDraws s (chElsewhere s k l) := by
  induction l generalizing s with
  | nil => exact ⟨rfl, rfl⟩
  | cons x xs ih =>
    have hrest := ih (if x.1 = k then s else chArrive s x.1 x.2)
    split at hrest
    next hx =>
      rw [chElsewhere, if_pos hx]
      exact hrest
    next hx =>
      rw [chElsewhere, if_neg hx]
      exact ⟨hrest.links, hrest.drawn⟩

theorem SameDraws.chMeanwhile (h : SameDraws s t) (k : AxisIx) (d : LinkDraw) : SameDraws s (chMeanwhile t k d) :=
  have hrest := sameDraws_chElsewhere k d.others t
  ⟨hrest.links.trans h.links, hrest.drawn.trans h.drawn⟩

/-- A request that is not refused takes the draw of its write. -/
theorem request_sameDraws (hr : ∀ r, (request s k c p).1 ≠ .refused r) :
    SameDraws s.drawLink.2 (request s k c p).2 := by
  unfold request at hr ⊢
  cases hid : (s.axis k).axisId with
  | none => simp [hid] at hr
  | some a =>
    simp only [hid] at hr ⊢
    cases hbuild : ((chDiscard s k).axis k).codec.build c a p with
    | error r => simp [hbuild] at hr
    | ok cd =>
      have hready : SameDraws s ((chDiscard s k).modAxis k fun ax => { ax with codec := cd }) := ⟨rfl, rfl⟩
      obtain ⟨hlinks, hdrawn⟩ := hready.drawLink.2
      simp only
      split
      all_goals exact ⟨hlinks, hdrawn⟩

/-! ### The read of the host -/

/-- The wait of a host read is over: the draw's bytes have arrived, and its time has passed, at most `T` (R65, R233). -/
def State.hostWaited (s : State) (k : AxisIx) (T : Nat) : State :=
  chPass s.drawLink.2 k { s.drawLink.1 with dt := min s.drawLink.1.dt T }

theorem State.hostWaited_rxq (s : State) (k : AxisIx) (T : Nat) :
    ((s.hostWaited k T).axis k).rxq = (s.axis k).rxq ++ s.drawLink.1.arrive := by
  obtain ⟨-, -, hk⟩ := chPass_spec s.drawLink.2 k { s.drawLink.1 with dt := min s.drawLink.1.dt T }
  rw [State.hostWaited, hk, State.drawLink_axis]

theorem State.hostWaited_now (s : State) (k : AxisIx) (T : Nat) :
    (s.hostWaited k T).now = s.now + min s.drawLink.1.dt T := by
  obtain ⟨-, hnow, -⟩ := chPass_spec s.drawLink.2 k { s.drawLink.1 with dt := min s.drawLink.1.dt T }
  rw [State.hostWaited, hnow, State.drawLink_now]

/-- A host read in terms of the wait. -/
theorem hostRead_eq (s : State) (k : AxisIx) (n T : Nat) :
    hostRead s k n T =
      if s.drawLink.1.readFails then (.err .transport, s.hostWaited k T)
      else if ((s.hostWaited k T).axis k).rxq.length < n then collect ((s.hostWaited k T).waitUntil (s.now + T)) k n
      else collect (s.hostWaited k T) k n := rfl

theorem hostRead_fails (hf : s.drawLink.1.readFails = true) :
    hostRead s k n T = (.err .transport, s.hostWaited k T) := by
  rw [hostRead_eq, if_pos hf]

theorem hostRead_enough (hf : ¬ s.drawLink.1.readFails = true) (hn : n ≤ ((s.hostWaited k T).axis k).rxq.length) :
    hostRead s k n T = collect (s.hostWaited k T) k n := by
  rw [hostRead_eq, if_neg hf, if_neg (Nat.not_lt.2 hn)]

theorem hostRead_short (hf : ¬ s.drawLink.1.readFails = true) (hn : ((s.hostWaited k T).axis k).rxq.length < n) :
    hostRead s k n T = collect ((s.hostWaited k T).waitUntil (s.now + T)) k n := by
  rw [hostRead_eq, if_neg hf, if_pos hn]

theorem collect_toResult (s : State) (k : AxisIx) (n : Nat) :
    (collect s k n).1.toResult = verdictResult (validateFrame ((s.axis k).rxq.take n) n) := by
  obtain ⟨hreply, -⟩ := collect_spec s k n
  rw [hreply]
  cases validateFrame ((s.axis k).rxq.take n) n <;> rfl

/-! ### TRANSACT -/

theorem exec_transact_free (hb : s.busy = false) (hid : s.usableId k = some a) (hT : 0 < n → s.tRead.isSome = true) :
    exec (.transact k c p n) s = .next ((hostTransact s k c p n).2.answer (hostTransact s k c p n).1.toResult) := by
  have hfree : s.channelRefusal k n = none :=
    State.channelRefusal_eq_none.2 ⟨hb, ⟨a, hid⟩, fun hn => Option.isSome_iff_exists.1 (hT hn)⟩
  rw [exec_transact, execTransact, hfree]

/-- TRANSACT of the host on a legal axis with a short payload: the write, and, when it succeeds and a reply is expected, the
read, which takes the second draw (R231). -/
theorem hostTransact_writes_then_reads (ha : (s.axis k).axisId = some a) (h1 : 1 ≤ a.toNat) (h32 : a.toNat ≤ 32)
    (hp : p.length ≤ 255) :
    ∃ v, HostSent k (frameBytes c a p) s v ∧ v.drawLink.1 = s.drawLink.2.drawLink.1 ∧
      (∀ j n, s.drawLink.1.sent = some j → hostTransact s k c p n = (.err .transport, v)) ∧
      (s.drawLink.1.sent = none → hostTransact s k c p 0 = (.ok [], v)) ∧
      ∀ n T, s.drawLink.1.sent = none → n ≠ 0 → s.tRead = some T → hostTransact s k c p n = hostRead v k n T := by
  obtain ⟨t, hsent, hok, hfail⟩ := request_sends (c := c) ha h1 h32 hp
  have hreq : (request s k c p).2 = t := by
    cases hs : s.drawLink.1.sent with
    | none => rw [hok hs]
    | some j => rw [hfail j hs]
  have hdraws := request_sameDraws (request_not_refused (c := c) ha h1 h32 hp)
  rw [hreq] at hdraws
  refine ⟨_, hsent, (hdraws.chMeanwhile k _).drawLink.1, fun j n hs => ?_, fun hs => ?_, fun n T hs hn hT => ?_⟩
  · simp only [hostTransact, hfail j hs]
  · simp only [hostTransact, hok hs, if_true]
  · simp only [hostTransact, hok hs, if_neg hn, hsent.frame.channels.tRead.trans hT]

/-- A host transaction leaves the registers of its axis but for the channel. -/
theorem HostMoved.axis (h : HostMoved k s t) :
    t.axis k = { s.axis k with rxq := (t.axis k).rxq, txh := (t.axis k).txh, codec := (t.axis k).codec } := by
  conv_lhs => rw [h.frame.2.2, h.wait]

theorem HostMoved.answer_frame (h : HostMoved k s t) (r : Result) :
    t.answer r = { s with
      axes := t.axes, links := t.links, drawn := t.drawn, now := t.now, port := { s.port with result := r } } := by
  conv_lhs => rw [h.frame.1]
  rfl

/-- The read of a host transaction, after the write has left `s`: how it ends, and what it takes from the queue and the time
(R65, R231, R233). -/
theorem hostRead_ends (s : State) (k : AxisIx) (n T : Nat) :
    (hostRead s k n T).2.now ≤ s.now + T ∧ ((hostRead s k n T).2.axis k).txh = (s.axis k).txh ∧
      if s.drawLink.1.readFails = true then
        (hostRead s k n T).1.toResult = .err .transport ∧
          ((hostRead s k n T).2.axis k).rxq = (s.axis k).rxq ++ s.drawLink.1.arrive ∧
          (hostRead s k n T).2.now = s.now + min s.drawLink.1.dt T
      else if n ≤ ((s.axis k).rxq ++ s.drawLink.1.arrive).length then
        ((hostRead s k n T).2.axis k).rxq = ((s.axis k).rxq ++ s.drawLink.1.arrive).drop n ∧
          (hostRead s k n T).2.now = s.now + min s.drawLink.1.dt T ∧
          (hostRead s k n T).1.toResult =
            verdictResult (validateFrame (((s.axis k).rxq ++ s.drawLink.1.arrive).take n) n)
      else
        (hostRead s k n T).1.toResult = .err .timeout ∧ ((hostRead s k n T).2.axis k).rxq = [] ∧
          (hostRead s k n T).2.now = s.now + T := by
  obtain ⟨-, -, hbound, -, -, htxh, -⟩ := hostRead_spec s k n T
  refine ⟨hbound, htxh, ?_⟩
  have hrxq := s.hostWaited_rxq k T
  have hnow := s.hostWaited_now k T
  rw [← hrxq]
  split
  next hf =>
    rw [hostRead_fails hf]
    exact ⟨rfl, rfl, hnow⟩
  next hf =>
    split
    next hn =>
      rw [hostRead_enough hf hn]
      obtain ⟨-, -, hcollectNow, hk⟩ := collect_spec (s.hostWaited k T) k n
      exact ⟨by rw [hk], hcollectNow.trans hnow, collect_toResult _ k n⟩
    next hn =>
      have hshort := Nat.lt_of_not_le hn
      rw [hostRead_short hf hshort]
      obtain ⟨-, -, hcollectNow, -⟩ := collect_spec ((s.hostWaited k T).waitUntil (s.now + T)) k n
      obtain ⟨hreply, hempty⟩ := collect_short (s := (s.hostWaited k T).waitUntil (s.now + T)) hshort
      refine ⟨congrArg Reply.toResult hreply, hempty, hcollectNow.trans (max_eq_right ?_)⟩
      rw [hnow]
      exact Nat.add_le_add_left (min_le_right _ _) _

end Sys2Proof.Machine

namespace Sys2Proof.Proofs

open Sys2Proof Sys2Proof.Machine

/-- Settles O25: the write decides whether there is a read (`hostTransact_writes_then_reads`), the read how it ends
(`hostRead_ends`). -/
theorem transactFollowsItsSteps : Obligations.TransactFollowsItsSteps := by
  unfold Obligations.TransactFollowsItsSteps
  rintro k c p n s a hb hid h1 h32 hp hT _ _ rfl rfl
  have hmoved := hostTransact_moved s k c p n
  refine ⟨_, exec_transact_free hb hid hT, ?ends, fun _ => hmoved.frame.other, hmoved.axis, hmoved.answer_frame _⟩
  case ends =>
    obtain ⟨v, hsent, hdraw, hfails, hempty, hreads⟩ :=
      hostTransact_writes_then_reads (c := c) (State.usableId_eq_some.1 hid).1 h1 h32 hp
    have htxh := hsent.txh
    split
    next j hs =>
      rw [sentPart_of_some hs] at htxh
      rw [hfails j n hs]
      exact ⟨rfl, hsent.rxq, hsent.now, htxh⟩
    next hs =>
      rw [sentPart_of_none hs] at htxh
      split
      next hn =>
        subst hn
        rw [hempty hs]
        exact ⟨htxh, rfl, hsent.rxq, hsent.now⟩
      next hn =>
        obtain ⟨T, hT⟩ := Option.isSome_iff_exists.1 (hT (Nat.pos_of_ne_zero hn))
        rw [hreads n T hs hn hT]
        obtain ⟨hbound, hreadTxh, hends⟩ := hostRead_ends v k n T
        rw [hdraw, hsent.rxq, hsent.now] at hends
        exact ⟨hreadTxh.trans htxh, T, hT, hsent.now ▸ hbound, hends⟩

/-- Settles O27: FIREFORGET in full (`FireForgot`), and its result. -/
theorem fireforgetSendsAndReports : Obligations.FireforgetSendsAndReports := by
  unfold Obligations.FireforgetSendsAndReports
  intro k c p s a hb hid h1 h32 hp
  have hfree : s.channelRefusal k 0 = none := State.channelRefusal_eq_none.2 ⟨hb, ⟨a, hid⟩, by simp⟩
  obtain ⟨t, hfire, hforgot⟩ :=
    hostFireForget_fireForgot (c := c) (State.usableId_eq_some.1 hid).1 h1 h32 hp (Config.hostSite s.rlog.length)
  refine ⟨t.answer (.ok .unit), ?exec, rfl, hforgot.rxq, hforgot.now, ?sent, hforgot.other, hforgot.axis, ?frame⟩
  case exec => simp only [exec_fireforget, execFireforget, hfree, hfire]
  case sent =>
    split
    next hs => exact hforgot.whole hs
    next j hs => exact hforgot.part j hs
  case frame =>
    conv_lhs => rw [hforgot.eq]
    rfl

end Sys2Proof.Proofs
end

section
/-! PROOF. REFRESH and ISVALID at the host port (`46_session.md` R240 to R242): the payloads of the two transactions have the
lengths their decoders want, so that REFRESH ends with a group update or in its catcher. -/

namespace Sys2Proof.Machine

variable {s t u : State} {k : AxisIx} {a : Byte} {p q : List Byte} {e : ErrKind} {raw : BitVec 64} {st : Stat2}

/-! ### The two transactions -/

theorem decMtang_of_length (h : p.length = 8) : ∃ raw, decMtang p = some raw := ⟨_, if_pos h⟩

theorem decStat2_of_length (h : p.length = 7) : ∃ st, decStat2 p = some st := ⟨_, if_pos h⟩

theorem hostRefresh_angle_fails (h : hostTransact s k 0x92 [] 14 = (.err e, t)) :
    hostRefresh s k = (none, refreshFail t k .refreshAngle e) := by
  simp only [hostRefresh, h]

theorem hostRefresh_status_fails (h : hostTransact s k 0x92 [] 14 = (.ok p, t)) (hraw : decMtang p = some raw)
    (h' : hostTransact t k 0x9C [] 13 = (.err e, u)) :
    hostRefresh s k = (none, refreshFail u k .refreshStatus e) := by
  simp only [hostRefresh, h, hraw, h']

theorem hostRefresh_succeeds (h : hostTransact s k 0x92 [] 14 = (.ok p, t)) (hraw : decMtang p = some raw)
    (h' : hostTransact t k 0x9C [] 13 = (.ok q, u)) (hst : decStat2 q = some st) :
    hostRefresh s k = (none, refreshDone u k raw st) := by
  simp only [hostRefresh, h, hraw, h', hst]

theorem exec_refresh_completes (hfree : s.channelRefusal k 14 = none) (h : hostRefresh s k = (none, t)) :
    exec (.refresh k) s = .next (t.answer (.ok .unit)) := by
  simp only [exec_refresh, execRefresh, hfree, h]

/-- A host transaction that has ended with a payload, with the length the reply length fixes. -/
theorem hostTransact_payload {c : Byte} {n : Nat} (h : hostTransact s k c [] n = (.ok p, t)) : p.length = n - 6 := by
  obtain ⟨-, -, hlen, -⟩ := hostTransact_spec s k c [] n
  exact hlen p (congrArg Prod.fst h)

/-- What a host transaction has moved, by its end. -/
theorem hostMoved_of_transact {c : Byte} {n : Nat} {r : Reply} (h : hostTransact s k c p n = (r, t)) : HostMoved k s t := by
  have hmoved := hostTransact_moved s k c p n
  rwa [h] at hmoved

theorem HostMoved.trans (h₁ : HostMoved k s t) (h₂ : HostMoved k t u) : HostMoved k s u where
  frame := h₁.frame.trans h₂.frame
  now := h₁.now.trans h₂.now
  wait := h₂.wait.trans h₁.wait
  txbuf := h₂.txbuf ∘ h₁.txbuf
  txh := h₁.txh.trans h₂.txh

/-! ### How REFRESH ends -/

/-- How REFRESH of the host ends, after transactions that have left `t` (R240, R241). -/
inductive RefreshEnd (s : State) (k : AxisIx) : Option RefuseReason × State → Prop where
  | refused (r : RefuseReason) (t : State) (ht : HostMoved k s t) : RefreshEnd s k (some r, t)
  | failed (site : Site) (e : ErrKind) (t : State) (ht : HostMoved k s t)
      (hsite : site = .refreshAngle ∨ site = .refreshStatus) :
    RefreshEnd s k (none, refreshFail t k site e)
  | done (raw : BitVec 64) (st : Stat2) (t : State) (ht : HostMoved k s t) :
    RefreshEnd s k (none, refreshDone t k raw st)

theorem hostRefresh_ends (s : State) (k : AxisIx) : RefreshEnd s k (hostRefresh s k) := by
  unfold hostRefresh
  split
  next r t h => exact .refused r t (hostMoved_of_transact h)
  next e t h => exact .failed _ e t (hostMoved_of_transact h) (.inl rfl)
  next p t h =>
    have ht := hostMoved_of_transact h
    split
    next => exact .refused _ t ht
    next raw _ =>
      split
      next r u h' => exact .refused r u (ht.trans (hostMoved_of_transact h'))
      next e u h' => exact .failed _ e u (ht.trans (hostMoved_of_transact h')) (.inr rfl)
      next q u h' =>
        have hu := ht.trans (hostMoved_of_transact h')
        split
        next => exact .refused _ u hu
        next st _ => exact .done raw st u hu

/-- REFRESH at the host port is refused before it begins, or ends as its transactions do. -/
theorem execRefresh_ends (s : State) (k : AxisIx) :
    (∃ r, execRefresh k s = .next (s.answer (.refused r))) ∨
      ∃ o t, RefreshEnd s k (o, t) ∧ execRefresh k s = .next (t.answer (o.elim (.ok .unit) .refused)) := by
  unfold execRefresh
  split
  next r _ => exact .inl ⟨r, rfl⟩
  next =>
    have hends := hostRefresh_ends s k
    split
    all_goals
      next hx =>
        rw [hx] at hends
        exact .inr ⟨_, _, hends, rfl⟩

/-- The three results of REFRESH: AxisState is set, or cleared with one record, or REFRESH is refused (R241). -/
theorem RefreshEnd.all_or_nothing {o : Option RefuseReason} (h : RefreshEnd s k (o, t)) :
    (o = none ∧ (t.axis k).data.isSome = true ∧ t.rlog = s.rlog) ∨
      (o = none ∧ (t.axis k).group = (none, none, none) ∧
        ∃ site e, (site = .refreshAngle ∨ site = .refreshStatus) ∧ t.rlog = s.rlog ++ [.err s.ticks k site e]) ∨
      ((∃ r, o = some r) ∧ (t.axis k).group = (s.axis k).group ∧ t.rlog = s.rlog) := by
  cases h with
  | refused r t ht => exact .inr (.inr ⟨⟨r, rfl⟩, ht.frame.channels.axis_group k, ht.frame.channels.rlog⟩)
  | failed site e t ht hsite =>
    obtain ⟨hk, -⟩ := t.setGroup_spec k none
    refine .inr (.inl ⟨rfl, ?_, site, e, hsite, ?_⟩)
    · rw [refreshFail, State.axis_report, hk]
      rfl
    · rw [refreshFail, State.report_rlog, ← ht.frame.channels.rlog, ← ht.frame.channels.ticks]
      rfl
  | done raw st t ht =>
    obtain ⟨-, hdata, -⟩ := t.setGroup_spec k (some (raw, st.spd, st.cur))
    refine .inl ⟨rfl, ?_, ht.frame.channels.rlog⟩
    rw [refreshDone, hdata]
    rfl

end Sys2Proof.Machine

namespace Sys2Proof.Proofs

open Sys2Proof Sys2Proof.Machine

/-- Settles O28: neither transaction is refused, the second in a state with the configuration of the first, and the payloads
have the lengths of their decoders; each end is an equation about `hostRefresh`. -/
theorem refreshRunsTwoTransactions : Obligations.RefreshRunsTwoTransactions := by
  unfold Obligations.RefreshRunsTwoTransactions
  intro k s a hb hid h1 h32 hT
  refine ⟨fun c p n => exec_transact_free hb hid fun _ => hT, ?_⟩
  have hfree : s.channelRefusal k 14 = none :=
    State.channelRefusal_eq_none.2 ⟨hb, ⟨a, hid⟩, fun _ => Option.isSome_iff_exists.1 hT⟩
  have hnotRefused : ∀ t c n r, ChannelsOnly s t → (hostTransact t k c [] n).1 ≠ .refused r := fun t c n r ht =>
    hostTransact_not_refused (State.usableId_eq_some.1 ((ht.usableId k).trans hid)).1 h1 h32 (Nat.zero_le _)
      (fun _ => by rw [ht.tRead]; exact Option.isSome_iff_ne_none.1 hT) r
  rcases hangle : hostTransact s k 0x92 [] 14 with ⟨r | e | p, t⟩
  case refused => exact absurd (congrArg Prod.fst hangle) (hnotRefused s _ _ r ⟨rfl, fun _ => rfl⟩)
  case err =>
    refine ⟨_, exec_refresh_completes hfree (hostRefresh_angle_fails hangle), ?_⟩
    rw [refreshFail, (hostMoved_of_transact hangle).frame.channels.ticks]
  case ok =>
    have ht := hostMoved_of_transact hangle
    obtain ⟨raw, hraw⟩ := decMtang_of_length (hostTransact_payload hangle)
    rcases hstatus : hostTransact t k 0x9C [] 13 with ⟨r | e | q, u⟩
    case refused => exact absurd (congrArg Prod.fst hstatus) (hnotRefused t _ _ r ht.frame.channels)
    case err =>
      refine ⟨_, exec_refresh_completes hfree (hostRefresh_status_fails hangle hraw hstatus), ?_⟩
      simp only [hstatus]
      rw [refreshFail, (ht.trans (hostMoved_of_transact hstatus)).frame.channels.ticks]
    case ok =>
      obtain ⟨st, hst⟩ := decStat2_of_length (hostTransact_payload hstatus)
      refine ⟨_, exec_refresh_completes hfree (hostRefresh_succeeds hangle hraw hstatus hst), ?_⟩
      simp only [hstatus]
      exact ⟨raw, st, hraw, hst, rfl⟩

/-- Settles O29: each end of REFRESH (`RefreshEnd`) is one of the three; the frame is that of the operations on a channel. -/
theorem refreshIsAllOrNothing : Obligations.RefreshIsAllOrNothing := by
  unfold Obligations.RefreshIsAllOrNothing
  intro k s u hexec
  rw [exec_refresh] at hexec
  obtain ⟨v, hv, hkeeps⟩ := execRefresh_next s k
  obtain rfl : u = v := Host.Outcome.next.inj (hexec.symm.trans hv)
  refine ⟨?ends, hkeeps.other, hkeeps.axis, ?frame⟩
  case ends =>
    obtain ⟨r, hr⟩ | ⟨o, t, hends, ho⟩ := execRefresh_ends s k
    · obtain rfl := Host.Outcome.next.inj (hexec.symm.trans hr)
      exact .inr (.inr ⟨⟨r, rfl⟩, rfl, rfl⟩)
    · obtain rfl := Host.Outcome.next.inj (hexec.symm.trans ho)
      obtain ⟨rfl, hset⟩ | ⟨rfl, hcleared⟩ | ⟨⟨r, rfl⟩, hkept⟩ := hends.all_or_nothing
      · exact .inl ⟨rfl, hset⟩
      · exact .inr (.inl ⟨rfl, hcleared⟩)
      · exact .inr (.inr ⟨⟨r, rfl⟩, hkept⟩)
  case frame =>
    conv_lhs => rw [hkeeps.eq, hkeeps.host, hkeeps.impbuf]

/-- Settles O30: the bit is `VALID[k]`, the conjunction of the three fields' presence; under the atomic-group invariant they
are there together. -/
theorem isvalidReadsTheGroup : Obligations.IsvalidReadsTheGroup := by
  unfold Obligations.IsvalidReadsTheGroup
  refine ⟨fun _ => rfl, fun k s => ⟨(s.axis k).valid, (s.axis k).valid_iff, fun hgroup => ?_, exec_isvalid⟩⟩
  obtain ⟨hvel, htrq⟩ := hgroup k
  rw [Axis.valid_iff, hvel, htrq, and_self, and_self, Option.isSome_iff_ne_none]

end Sys2Proof.Proofs
end

section
/-! PROOF. Who writes AxisState (`46_session.md` R243): every instruction but REFRESH, and every move of an agent but that of
a worker in the refresh phase, leaves the three fields of every axis (`SameGroups`). -/

namespace Sys2Proof.Machine

variable {s t u : State} {j k : AxisIx}

/-- `t` has the AxisState of `s` on every axis. -/
def SameGroups (s t : State) : Prop := ∀ k, (t.axis k).group = (s.axis k).group

theorem SameGroups.trans (h₁ : SameGroups s t) (h₂ : SameGroups t u) : SameGroups s u := fun k => (h₂ k).trans (h₁ k)

theorem SameGroups.modAxis (h : SameGroups s u) (k : AxisIx) {f : Axis → Axis} (hf : ∀ a, (f a).group = a.group) :
    SameGroups s (u.modAxis k f) :=
  h.trans fun j => by rw [State.axis_modAxis]; split <;> simp_all

theorem SameGroups.modActive (h : SameGroups s u) {f : Axis → Axis} (hf : ∀ a, (f a).group = a.group) :
    SameGroups s (u.modActive f) :=
  h.trans fun j => by rw [State.axis_modActive]; split <;> simp [hf]

theorem Inside.sameGroups (h : Inside s t) : SameGroups s t := fun k => by rw [h.axis k]

theorem ChannelMoved.sameGroups (h : ChannelMoved k s t) : SameGroups s t := h.frame.channels.axis_group

theorem MayReport.sameGroups (h : MayReport s t) : SameGroups s t := fun k => by rw [h.axis k]

/-- Bytes that arrive leave AxisState. -/
theorem Receives.group {a b : Axis} (h : Receives a b) : b.group = a.group := by
  obtain ⟨bytes, rfl⟩ := h
  rfl

theorem StaysOnAxis.sameGroups (h : StaysOnAxis k s t) (hk : (t.axis k).group = (s.axis k).group) : SameGroups s t :=
  fun j => by
    by_cases hj : j = k
    · exact hj ▸ hk
    · exact (h.other j hj).group

theorem setTorques_sameGroups (s : State) (t0 t1 : Rat) : SameGroups s (s.setTorques t0 t1) :=
  have hfirst : SameGroups s (s.modAxis 0 fun a => { a with tq := some t0 }) := SameGroups.modAxis (fun _ => rfl) 0 fun _ => rfl
  hfirst.modAxis 1 fun _ => rfl

/-! ### Instructions -/

/-- REFRESH during a run is refused with nothing but an answer (R300). -/
theorem execRefresh_busy (hb : s.busy = true) : execRefresh k s = .next (s.answer (.refused .busy)) := by
  simp [execRefresh, State.channelRefusal, hb]

/-- An instruction that changes AxisState of axis `k` is REFRESH `k` outside a run. -/
theorem refresh_of_exec_changes {i : Instr} (h : exec i s = .next t) (hne : (t.axis k).group ≠ (s.axis k).group) :
    i = .refresh k ∧ s.busy = false := by
  suffices SameGroups s t ∨ i = .refresh k ∧ s.busy = false from this.resolve_left fun hsame => hne (hsame k)
  cases i
  case refresh j =>
    obtain ⟨u, hu, hkeeps⟩ := execRefresh_next s j
    obtain rfl : t = u := Host.Outcome.next.inj (h.symm.trans hu)
    have hjk : k = j := by
      by_contra hkj
      exact hne (hkeeps.other k hkj).group
    subst hjk
    refine .inr ⟨rfl, Bool.eq_false_iff.2 fun hb => hne ?_⟩
    obtain rfl := Host.Outcome.next.inj (h.symm.trans (execRefresh_busy hb))
    rfl
  all_goals left
  case transact j c p n =>
    obtain ⟨u, hu, hkeeps, hgroup⟩ := execTransact_next s j c p n
    obtain rfl : t = u := Host.Outcome.next.inj (h.symm.trans hu)
    exact hkeeps.sameGroups hgroup
  case fireforget j c p =>
    obtain ⟨u, hu, hkeeps, hgroup⟩ := execFireforget_next s j c p
    obtain rfl : t = u := Host.Outcome.next.inj (h.symm.trans hu)
    exact hkeeps.sameGroups hgroup
  case impedance j p v kp kd tq =>
    obtain ⟨u, hu, hstays, hgroup⟩ := execImpedance_next s j p v kp kd tq
    obtain rfl : t = u := Host.Outcome.next.inj (h.symm.trans hu)
    exact hstays.sameGroups hgroup
  case computePd =>
    simp only [exec, execComputePd] at h
    split at h
    next =>
      cases h
      exact fun _ => rfl
    next =>
      split at h
      next =>
        cases h
        exact fun _ => rfl
      next =>
        cases h
        exact fun _ => rfl
      next t0 t1 _ =>
        cases h
        exact setTorques_sameGroups s t0 t1
  case run =>
    simp only [exec, execRun] at h
    split at h
    next =>
      cases h
      exact fun _ => rfl
    next =>
      split at h
      all_goals
        cases h
        exact fun _ => rfl
  case build => exact (execBuild_inside h).sameGroups
  case validate => exact (execValidate_inside h).sameGroups
  case quant => exact (execQuant_inside h).sameGroups
  case decMtang | decStat2 | decStang =>
    simp only [exec, execDecMtang, execDecStat2, execDecStang] at h
    split at h
    all_goals
      cases h
      exact fun _ => rfl
  case imppack | csumClr | csumAdd | csumRd | csum8 | isvalid | cancel =>
    cases h
    exact fun _ => rfl
  case enable | disable | stop | clrerr | zero | zero95 | clrturn | rdstat1 | rdstat2 | rdenc | rdmtang | rdstang
      | openloop | torque | speed | pos | posspd | scpos | scposspd | incpos | incposspd | paramrd | paramwrRam
      | paramwrRom =>
    cases h
    exact (inside_encodeWire ..).sameGroups

/-! ### Moves of agents -/

theorem StartupEnd.sameGroups (h : StartupEnd s t) : SameGroups s t := by
  cases h with
  | running => exact SameGroups.modActive (f := fun a => { a with life := .running }) (fun _ => rfl) fun _ => rfl
  | pending k u _ hu => exact hu.sameGroups
  | failed k u site e _ hu => exact hu.sameGroups
  | enabled k u _ hu => exact hu.sameGroups.modAxis k (f := fun a => { a with life := .enabled }) fun _ => rfl
  | zeroed k u _ hu => exact hu.sameGroups.modAxis k (f := fun a => { a with life := .zeroed }) fun _ => rfl

theorem ShutdownEnd.sameGroups (h : ShutdownEnd s t) : SameGroups s t := by
  cases h with
  | halted => exact fun _ => rfl
  | pending k u _ hu => exact hu.sameGroups
  | failed k u e _ hu => exact hu.sameGroups
  | disabled k u _ hu => exact hu.sameGroups.modAxis k (f := fun a => { a with life := .disabled }) fun _ => rfl

theorem SameGroups.enterDispatch (h : SameGroups s u) : SameGroups s u.enterDispatch :=
  h.modActive (f := fun a => { a with wstep := .cmd }) fun _ => rfl

theorem computeMove_sameGroups (h : computeMove s = .next t) : SameGroups s t := by
  unfold computeMove at h
  split at h
  next =>
    cases h
    exact SameGroups.enterDispatch fun _ => rfl
  next =>
    split at h
    next => cases h
    next =>
      cases h
      exact fun _ => rfl
    next t0 t1 _ =>
      cases h
      exact (setTorques_sameGroups s t0 t1).enterDispatch

/-- The sequencer reads AxisState and does not write it. -/
theorem sequencerMove_sameGroups (h : sequencerMove s = .next t) : SameGroups s t := by
  unfold sequencerMove at h
  cases hp : s.phase <;> simp only [hp] at h
  case startup => exact (startupMove_ends h).sameGroups
  case shutdown => exact (shutdownMove_ends h).sameGroups
  case compute => exact computeMove_sameGroups h
  case tickStart =>
    cases h
    exact SameGroups.modActive (f := fun a => { a with tq := none, wstep := .t1 }) (fun _ => rfl) fun _ => rfl
  case check =>
    cases h
    unfold checkMove
    split
    all_goals exact fun _ => rfl
  case between =>
    cases h
    unfold betweenMove
    split
    all_goals exact fun _ => rfl
  case timing =>
    unfold timingMove at h
    split at h
    next => cases h
    next =>
      dsimp only at h
      split at h
      all_goals
        cases h
        exact fun _ => rfl
  case sleep =>
    unfold sleepMove at h
    split at h
    next => cases h
    next =>
      split at h
      all_goals
        cases h
        exact fun _ => rfl
  case refresh | dispatch =>
    split at h
    all_goals
      cases h
      exact fun _ => rfl
  case idle | halted =>
    cases h
    exact fun _ => rfl

/-- A worker writes AxisState of its own axis alone, at the end of a refresh. -/
theorem WorkerEnd.sameGroups (h : WorkerEnd s k t) :
    SameGroups s t ∨ s.phase = .refresh ∧ ∀ j, j ≠ k → t.axis j = s.axis j := by
  cases h with
  | refreshed u v g hp hu hv => exact .inr ⟨hp, (WorkerEnd.refreshed u v g hp hu hv).oneAxis.other⟩
  | waits => exact .inl fun _ => rfl
  | pending u hu => exact .inl hu.sameGroups
  | angle u raw _ _ hu => exact .inl (hu.sameGroups.modAxis k fun _ => rfl)
  | torque u v _ _ hu hv => exact .inl ((hu.sameGroups.trans hv.sameGroups).modAxis k fun _ => rfl)
  | setpoints u v _ _ hu _ hv =>
    have hcleared : SameGroups s (v.clearSamples k) := (hu.sameGroups.trans hv.sameGroups).modAxis k fun _ => rfl
    exact .inl (hcleared.modAxis k fun _ => rfl)

/-- A worker of an axis that does not exist does not move (R20, R44). -/
theorem workerMove_inactive (h : ¬ s.active k = true) : workerMove s k = .next s := if_neg h

theorem refresh_of_workerMove_changes (h : workerMove s j = .next t) (hne : (t.axis k).group ≠ (s.axis k).group) :
    j = k ∧ s.phase = .refresh ∧ s.active k = true := by
  obtain hsame | ⟨hp, hother⟩ := (workerMove_ends h).sameGroups
  · exact absurd (hsame k) hne
  · have hjk : k = j := by
      by_contra hkj
      exact hne (by rw [hother k hkj])
    subst hjk
    refine ⟨rfl, hp, ?_⟩
    by_contra hinactive
    obtain rfl := Host.Outcome.next.inj ((workerMove_inactive hinactive).symm.trans h)
    exact hne rfl

theorem configWrite_sameGroups (legal : Bool) {w : State} (hw : SameGroups s w) : SameGroups s (configWrite s legal w) := by
  obtain ⟨r, h⟩ | ⟨-, -, h⟩ := configWrite_cases s legal w
  all_goals rw [h]
  · exact fun _ => rfl
  · exact hw

theorem hostWrite_sameGroups (w : RegWrite) (s : State) : SameGroups s (hostWrite w s) := by
  cases w with
  | nax | kp | kd | limit | period | tRead | mode | required => exact configWrite_sameGroups _ fun _ => rfl
  | axisId k | chAddr k | baud k => exact configWrite_sameGroups _ (SameGroups.modAxis (fun _ => rfl) k fun _ => rfl)
  | pDes k v => exact SameGroups.modAxis (fun _ => rfl) k (f := fun a => { a with pDes := v }) fun _ => rfl
  | vDes k v => exact SameGroups.modAxis (fun _ => rfl) k (f := fun a => { a with vDes := v }) fun _ => rfl
  | tFf k v => exact SameGroups.modAxis (fun _ => rfl) k (f := fun a => { a with tFf := v }) fun _ => rfl
  | rxbuf bytes => exact (hostWrite_rxbuf_inside bytes s).sameGroups

theorem sampleMove_sameGroups (s : State) (k : AxisIx) (r : Setpoint) : SameGroups s (sampleMove s k r) := by
  obtain ⟨hother, hk, -⟩ := sampleMove_frame s k r
  intro j
  by_cases hj : j = k
  · subst hj
    rw [hk]
    rfl
  · rw [hother j hj]

/-- A move of an agent that changes AxisState of axis `k` is that of worker `k` in the refresh phase. -/
theorem worker_of_agentMove_changes {e : Event} (h : agentMove e s = .next t)
    (hne : (t.axis k).group ≠ (s.axis k).group) : e = .worker k ∧ s.phase = .refresh ∧ s.active k = true := by
  suffices SameGroups s t ∨ e = .worker k ∧ s.phase = .refresh ∧ s.active k = true from
    this.resolve_left fun hsame => hne (hsame k)
  cases e with
  | worker j =>
    obtain ⟨rfl, hrefresh⟩ := refresh_of_workerMove_changes h hne
    exact .inr ⟨rfl, hrefresh⟩
  | sequencer => exact .inl (sequencerMove_sameGroups h)
  | request r =>
    cases h
    exact .inl fun _ => rfl
  | write w =>
    cases h
    exact .inl (hostWrite_sameGroups w s)
  | read r =>
    cases h
    exact .inl fun _ => rfl
  | device k bytes =>
    cases h
    exact .inl (SameGroups.modAxis (fun _ => rfl) k fun _ => rfl)
  | time dt =>
    cases h
    exact .inl fun _ => rfl
  | sample k r =>
    cases h
    exact .inl (sampleMove_sameGroups s k r)

theorem Inside.phase (h : Inside s t) : t.phase = s.phase := (congrArg State.phase h.eq :)

theorem Inside.active (h : Inside s t) (k : AxisIx) : t.active k = s.active k :=
  State.active_congr (congrArg State.nax h.eq :) k

end Sys2Proof.Machine

namespace Sys2Proof.Proofs

open Sys2Proof Sys2Proof.Machine

/-- Settles O31: a step with a request at the port runs an instruction or refuses a select, any other step is the move of an
agent; of these only REFRESH and a worker in the refresh phase change AxisState. -/
theorem onlyRefreshWritesAxisState : Obligations.OnlyRefreshWritesAxisState := by
  unfold Obligations.OnlyRefreshWritesAxisState
  intro s t k hstep hne
  cases hs : s.port.start with
  | true =>
    left
    cases hdec : decode s.placed with
    | error e =>
      obtain rfl := Host.Outcome.next.inj ((step_of_decode_error hs hdec).symm.trans hstep)
      exact absurd rfl hne
    | ok i =>
      rw [step_of_decode_ok hs hdec] at hstep
      obtain ⟨rfl, hb⟩ := refresh_of_exec_changes hstep hne
      exact ⟨rfl, rfl, hb⟩
  | false =>
    right
    rw [step_of_idle_port hs] at hstep
    have hdrawn := inside_drawEvent s
    rw [← hdrawn.axis k] at hne
    obtain ⟨hworker, hphase, hactive⟩ := worker_of_agentMove_changes hstep hne
    exact ⟨rfl, hworker, hdrawn.phase.symm.trans hphase, (hdrawn.active k).symm.trans hactive⟩

end Sys2Proof.Proofs
end

section
/-! PROOF. The control law and RUN at the host port (`47_sequencer.md` R251, R262 to R264): what `pdOutcome` answers by the
registers it looks at, and what RUN requires, register by register. -/

namespace Sys2Proof.Machine

variable {s : State} {kp kd limit : Rat} {p₀ p₁ : BitVec 64} {v₀ v₁ t₀ t₁ : BitVec 16}

/-! ### COMPUTE.PD -/

theorem Axis.data_eq_none_of_not_valid {a : Axis} (h : a.valid = false) : a.data = none := by
  simpa [Axis.valid] using h

theorem Axis.data_of_valid {a : Axis} (h : a.valid = true) : ∃ d, a.data = some d := Option.isSome_iff_exists.1 h

/-- The configuration lets COMPUTE.PD look at the axes (R262; assumption 31). -/
structure PdConfigured (s : State) : Prop where
  nax : s.nax = some 2
  kp : s.kp.isSome = true
  kd : s.kd.isSome = true
  limit : s.limit.isSome = true

theorem pdOutcome_of_data (hnax : s.nax = some 2) (hkp : s.kp = some kp) (hkd : s.kd = some kd) (hlimit : s.limit = some limit)
    (h0 : (s.axis 0).data = some (p₀, v₀, t₀)) (h1 : (s.axis 1).data = some (p₁, v₁, t₁)) :
    pdOutcome s =
      .torques (clampQ (pdTorque kp kd (p₀, v₀) (p₁, v₁)) (-limit) limit)
        (clampQ (pdTorque kp kd (p₁, v₁) (p₀, v₀)) (-limit) limit) := by
  simp [pdOutcome, clipTorque, hkp, hkd, hlimit, hnax, h0, h1]

theorem pdOutcome_refused (h : s.nax ≠ some 2 ∨ s.kp = none ∨ s.kd = none ∨ s.limit = none) : pdOutcome s = .refused := by
  unfold pdOutcome
  split
  next hkp hkd hlimit =>
    obtain hnax | hnone | hnone | hnone := h
    · exact if_pos hnax
    · simp [hnone] at hkp
    · simp [hnone] at hkd
    · simp [hnone] at hlimit
  next => rfl

theorem PdConfigured.pdOutcome_first_invalid (h : PdConfigured s) (h0 : (s.axis 0).valid = false) :
    pdOutcome s = .invalid 0 := by
  obtain ⟨kp, hkp⟩ := Option.isSome_iff_exists.1 h.kp
  obtain ⟨kd, hkd⟩ := Option.isSome_iff_exists.1 h.kd
  obtain ⟨limit, hlimit⟩ := Option.isSome_iff_exists.1 h.limit
  simp [pdOutcome, hkp, hkd, hlimit, h.nax, Axis.data_eq_none_of_not_valid h0]

theorem PdConfigured.pdOutcome_second_invalid (h : PdConfigured s) (h0 : (s.axis 0).valid = true)
    (h1 : (s.axis 1).valid = false) : pdOutcome s = .invalid 1 := by
  obtain ⟨kp, hkp⟩ := Option.isSome_iff_exists.1 h.kp
  obtain ⟨kd, hkd⟩ := Option.isSome_iff_exists.1 h.kd
  obtain ⟨limit, hlimit⟩ := Option.isSome_iff_exists.1 h.limit
  obtain ⟨d, hd⟩ := Axis.data_of_valid h0
  simp [pdOutcome, hkp, hkd, hlimit, h.nax, hd, Axis.data_eq_none_of_not_valid h1]

theorem PdConfigured.pdOutcome_torques (h : PdConfigured s) (h0 : (s.axis 0).valid = true) (h1 : (s.axis 1).valid = true) :
    ∃ u₀ u₁, pdOutcome s = .torques u₀ u₁ := by
  obtain ⟨kp, hkp⟩ := Option.isSome_iff_exists.1 h.kp
  obtain ⟨kd, hkd⟩ := Option.isSome_iff_exists.1 h.kd
  obtain ⟨limit, hlimit⟩ := Option.isSome_iff_exists.1 h.limit
  obtain ⟨⟨p₀, v₀, t₀⟩, hd₀⟩ := Axis.data_of_valid h0
  obtain ⟨⟨p₁, v₁, t₁⟩, hd₁⟩ := Axis.data_of_valid h1
  exact ⟨_, _, pdOutcome_of_data h.nax hkp hkd hlimit hd₀ hd₁⟩

/-- The law in the units of AxisState (R263). -/
theorem pdTorque_eq (kp kd : Rat) (p₀ p₁ : BitVec 64) (v₀ v₁ : BitVec 16) :
    pdTorque kp kd (p₀, v₀) (p₁, v₁) =
      kp * ((p₁.toInt : Rat) / 100 - (p₀.toInt : Rat) / 100) + kd * ((v₁.toInt : Rat) / 100 - (v₀.toInt : Rat) / 100) := rfl

/-- The law of one axis is the opposite of that of its pair (R263). -/
theorem pdTorque_swap (kp kd : Rat) (x y : BitVec 64 × BitVec 16) : pdTorque kp kd y x = -pdTorque kp kd x y := by
  simp only [pdTorque]
  ring

/-- A clip to a symmetric bound keeps opposites (R264). -/
theorem clampQ_neg (h : 0 ≤ limit) (u : Rat) : clampQ (-u) (-limit) limit = -clampQ u (-limit) limit := by
  unfold clampQ
  split_ifs
  all_goals linarith

@[simp] theorem axis_setTorques_zero (s : State) (u₀ u₁ : Rat) :
    (s.setTorques u₀ u₁).axis 0 = { s.axis 0 with tq := some u₀ } := by
  simp [State.setTorques]

@[simp] theorem axis_setTorques_one (s : State) (u₀ u₁ : Rat) :
    (s.setTorques u₀ u₁).axis 1 = { s.axis 1 with tq := some u₁ } := by
  simp [State.setTorques]

theorem axis_setTorques_ne (s : State) (u₀ u₁ : Rat) {j : AxisIx} (h0 : j ≠ 0) (h1 : j ≠ 1) :
    (s.setTorques u₀ u₁).axis j = s.axis j := by
  simp [State.setTorques, h0, h1]

theorem active_setTorques (s : State) (u₀ u₁ : Rat) (j : AxisIx) : (s.setTorques u₀ u₁).active j = s.active j := rfl

theorem exec_computePd_torques {u₀ u₁ : Rat} (hb : s.busy = false) (h : pdOutcome s = .torques u₀ u₁) :
    exec .computePd s = .next ((s.setTorques u₀ u₁).answer (.ok (.torques u₀ u₁))) := by
  simp [exec_computePd, execComputePd, hb, h]

theorem exec_computePd_invalid {k : AxisIx} (hb : s.busy = false) (h : pdOutcome s = .invalid k) :
    exec .computePd s = .next (s.answer (.err .controlPrecondition)) := by
  simp [exec_computePd, execComputePd, hb, h]

theorem exec_computePd_refused (hb : s.busy = false) (h : pdOutcome s = .refused) : Refuses .computePd s .config := by
  simp [Refuses, exec_computePd, execComputePd, hb, h]

/-! ### RUN -/

theorem busy_iff : s.busy = true ↔ s.phase ≠ .idle ∧ s.phase ≠ .halted := by
  simp [State.busy]

/-- What RUN requires, with the axes below `NAX` written out (R251). -/
theorem configured_iff_registers :
    s.configured = true ↔
      (∃ n, s.nax = some n ∧ (∀ k : AxisIx, k.val < n → (s.axis k).axisId.isSome = true) ∧ (s.mode = .pd → n = 2)) ∧
        s.kp.isSome = true ∧ s.kd.isSome = true ∧ s.limit.isSome = true ∧ s.period.isSome = true ∧ s.tRead.isSome = true := by
  rw [configured_iff, RegsSet]
  cases hnax : s.nax with
  | none => simp
  | some n =>
    simp only [State.active, hnax, Option.isSome_some, Option.some.injEq, decide_eq_true_eq, exists_eq_left', true_and]
    tauto

theorem exec_run_busy (hb : s.busy = true) : Refuses .run s .busy := by
  simp [Refuses, exec_run, execRun, hb]

theorem exec_run_unconfigured (hb : s.busy = false) (hc : s.configured = false) : Refuses .run s .config := by
  simp [Refuses, exec_run, execRun, hb, hc]

theorem exec_run_starts (hb : s.busy = false) (hc : s.configured = true) :
    exec .run s =
      .next ({ s with cancel := false, ticks := 0, phase := .startup, seqAxis := 0, seqStep := .enable }.answer
        (.ok .unit)) := by
  simp [exec_run, execRun, hb, hc]

end Sys2Proof.Machine

namespace Sys2Proof.Proofs

open Sys2Proof Sys2Proof.Machine

/-- Settles O34: the torques are `pdOutcome` on the two axes' fields; the law is antisymmetric and the clip keeps that. -/
theorem computePdAtTheHostPort : Obligations.ComputePdAtTheHostPort := by
  unfold Obligations.ComputePdAtTheHostPort
  refine ⟨?law, fun _ => rfl, fun s hb => ⟨?refused, ?invalid⟩⟩
  case law =>
    intro s kp kd limit p₀ p₁ v₀ v₁ t₀ t₁ hb hnax hkp hkd hlimit hle hg₀ hg₁ u₀ u₁ hu₀ hu₁
    rw [← pdTorque_eq] at hu₀ hu₁
    subst hu₀ hu₁
    have hlaw := pdOutcome_of_data hnax hkp hkd hlimit (Axis.data_of_group hg₀) (Axis.data_of_group hg₁)
    have hswap := pdTorque_swap kp kd (p₀, v₀) (p₁, v₁)
    refine ⟨hswap, (congrArg (clampQ · (-limit) limit) hswap).trans (clampQ_neg hle _), _,
      exec_computePd_torques hb hlaw, ?_, ?_, fun j h0 h1 => ?_, rfl⟩
    · rw [State.axis_answer, axis_setTorques_zero]
    · rw [State.axis_answer, axis_setTorques_one]
    · rw [State.axis_answer, axis_setTorques_ne s _ _ h0 h1]
  case refused => exact fun h => exec_computePd_refused hb (pdOutcome_refused h)
  case invalid =>
    intro hnax hkp hkd hlimit hinvalid
    have hconf : PdConfigured s := ⟨hnax, hkp, hkd, hlimit⟩
    cases h0 : (s.axis 0).valid with
    | false => exact exec_computePd_invalid hb (hconf.pdOutcome_first_invalid h0)
    | true =>
      have h1 : (s.axis 1).valid = false := hinvalid.resolve_left (by simp [h0])
      exact exec_computePd_invalid hb (hconf.pdOutcome_second_invalid h0 h1)

/-- Settles O35: the phase decides first, then what RUN requires (`configured_iff_registers`). -/
theorem runStartsOrRefuses : Obligations.RunStartsOrRefuses := by
  unfold Obligations.RunStartsOrRefuses
  refine ⟨fun _ => rfl, fun s => ⟨fun hidle hhalted => exec_run_busy (busy_iff.2 ⟨hidle, hhalted⟩), fun hp => ?_⟩⟩
  have hb := not_busy_iff.2 hp
  simp only [← configured_iff_registers]
  split
  next hc => exact exec_run_starts hb hc
  next hc => exact exec_run_unconfigured hb (Bool.eq_false_iff.2 hc)

end Sys2Proof.Proofs
end

section
/-! PROOF. The moves of a tick that concern no single axis (`47_sequencer.md` R257 to R262, R270 to R272), each by its phase,
and the configuration writes of the host (`60_exceptions.md` R309). -/

namespace Sys2Proof.Machine

variable {s : State} {p : Nat}

/-! ### The sequencer's move, by its phase -/

theorem sequencerMove_startup (hp : s.phase = .startup) : sequencerMove s = startupMove s := by simp [sequencerMove, hp]

theorem sequencerMove_tickStart (hp : s.phase = .tickStart) : sequencerMove s = .next (tickStartMove s) := by
  simp [sequencerMove, hp]

theorem sequencerMove_refresh (hp : s.phase = .refresh) :
    sequencerMove s = .next (if s.barrierPassed = true then { s with phase := .check } else s) := by
  simp only [sequencerMove, hp]
  split <;> rfl

theorem sequencerMove_check (hp : s.phase = .check) : sequencerMove s = .next (checkMove s) := by simp [sequencerMove, hp]

theorem sequencerMove_compute (hp : s.phase = .compute) : sequencerMove s = computeMove s := by simp [sequencerMove, hp]

theorem sequencerMove_dispatch (hp : s.phase = .dispatch) :
    sequencerMove s = .next (if s.barrierPassed = true then { s with phase := .timing } else s) := by
  simp only [sequencerMove, hp]
  split <;> rfl

theorem sequencerMove_timing (hp : s.phase = .timing) : sequencerMove s = timingMove s := by simp [sequencerMove, hp]

theorem sequencerMove_sleep (hp : s.phase = .sleep) : sequencerMove s = sleepMove s := by simp [sequencerMove, hp]

theorem sequencerMove_between (hp : s.phase = .between) : sequencerMove s = .next (betweenMove s) := by
  simp [sequencerMove, hp]

theorem sequencerMove_shutdown (hp : s.phase = .shutdown) : sequencerMove s = shutdownMove s := by simp [sequencerMove, hp]

/-! ### What the moves of a tick do -/

theorem barrierPassed_eq_false (h : ∃ k, s.active k = true ∧ (s.axis k).wstep ≠ .done) : s.barrierPassed ≠ true := by
  obtain ⟨k, hk, hstep⟩ := h
  exact fun hb => hstep ((State.barrierPassed_iff s).1 hb k hk)

theorem timingMove_eq (hper : s.period = some p) :
    timingMove s =
      .next (if p ≤ s.now - s.tStart then
        { s with tEnd := s.now, overrun := true, phase := .between }.report (.overrun s.ticks (s.now - s.tStart))
      else { s with tEnd := s.now, overrun := false, phase := .sleep }) := by
  unfold timingMove
  split
  next hnone => simp [hnone] at hper
  next period hsome =>
    obtain rfl : period = p := Option.some.inj (hsome.symm.trans hper)
    by_cases hover : period ≤ s.now - s.tStart
    · rw [if_pos hover]
      exact if_pos (decide_eq_true hover)
    · rw [if_neg hover]
      exact if_neg (mt of_decide_eq_true hover)

theorem sleepMove_eq (hper : s.period = some p) :
    sleepMove s = .next (if s.tStart + p ≤ s.now then { s with phase := .between } else s) := by
  unfold sleepMove
  split
  next hnone => simp [hnone] at hper
  next period hsome =>
    obtain rfl : period = p := Option.some.inj (hsome.symm.trans hper)
    split <;> rfl

theorem computeMove_imp (hm : s.mode = .imp) : computeMove s = .next s.enterDispatch := by
  simp only [computeMove, hm]

theorem computeMove_invalid {k : AxisIx} (hm : s.mode = .pd) (h : pdOutcome s = .invalid k) :
    computeMove s = .next ({ s with phase := .timing }.report (.err s.ticks k .compute .controlPrecondition)) := by
  unfold computeMove
  split
  next himp => simp [himp] at hm
  next => rw [h]; rfl

theorem computeMove_torques {u₀ u₁ : Rat} (hm : s.mode = .pd) (h : pdOutcome s = .torques u₀ u₁) :
    computeMove s = .next (s.setTorques u₀ u₁).enterDispatch := by
  unfold computeMove
  split
  next himp => simp [himp] at hm
  next => rw [h]

/-! ### Configuration writes -/

theorem configWrite_illegal {w : State} (hb : s.busy = false) : configWrite s false w = s.answer (.refused .config) := by
  simp [configWrite, hb]

theorem configWrite_legal {w : State} (hb : s.busy = false) : configWrite s true w = w.answer (.ok .unit) := by
  simp [configWrite, hb]

end Sys2Proof.Machine

namespace Sys2Proof.Proofs

open Sys2Proof Sys2Proof.Machine

/-- Settles O37: every configuration write is a `configWrite`, refused in a run, and outside one decided by its legality. -/
theorem configurationWriteWindow : Obligations.ConfigurationWriteWindow := by
  unfold Obligations.ConfigurationWriteWindow
  intro s k n v q m mask
  refine ⟨fun hb w hw => ?_, fun hb => ?_⟩
  · simp only [List.mem_cons, List.not_mem_nil, or_false] at hw
    obtain rfl | rfl | rfl | rfl | rfl | rfl | rfl | rfl | rfl | rfl | rfl := hw
    all_goals exact congrArg _ (configWrite_busy hb _ _)
  · have illegal {legal : Bool} {w : State} (h : legal = false) : configWrite s legal w = s.answer (.refused .config) :=
      h ▸ configWrite_illegal hb
    have written {legal : Bool} {w : State} (h : legal = true) : configWrite s legal w = w.answer (.ok .unit) :=
      h ▸ configWrite_legal hb
    simp only [agentMove, hostWrite]
    refine ⟨fun h => ?_, fun h => ?_, fun h => ?_, fun h => ?_, fun h1 h32 => ?_, fun h1 h32 => ?_, fun h => ?_,
      fun h => ⟨?_, ?_⟩, ?_, ?_, ?_, ?_, ?_, ?_⟩
    · exact congrArg _ (illegal (by simp; omega))
    · exact congrArg _ (illegal (by simp; omega))
    · exact congrArg _ (illegal (by simpa using h))
    · exact congrArg _ (illegal (by simp [h]))
    · exact congrArg _ (written (by simp [h1, h32]))
    · exact congrArg _ (written (by simp [h1, h32]))
    · exact congrArg _ (written (by simpa using h))
    · exact congrArg _ (written (by simpa using h))
    · exact congrArg _ (written (by simpa using h))
    all_goals exact congrArg _ (written rfl)

/-- Settles O43: `TickStart` writes every axis below `NAX`; `Check` asks `skipNeeded`. -/
theorem tickStartAndCheck : Obligations.TickStartAndCheck := by
  unfold Obligations.TickStartAndCheck
  refine ⟨fun s hp => ⟨_, sequencerMove_tickStart hp, axis_tickStartMove s, rfl⟩, fun s hp =>
    ⟨fun h => ?_, fun h => ?_⟩⟩
  · rw [sequencerMove_check hp, checkMove, if_pos ((State.skipNeeded_iff s).2 h)]
    rfl
  · rw [sequencerMove_check hp, checkMove, (skipNeeded_eq_false_iff s).2 h]
    rfl

/-- Settles O44: both barriers are `barrierPassed`. -/
theorem barriersWaitForEveryWorker : Obligations.BarriersWaitForEveryWorker := by
  unfold Obligations.BarriersWaitForEveryWorker
  refine fun s => ⟨fun hp => ⟨fun h => ?_, fun h => ?_⟩, fun hp => ⟨fun h => ?_, fun h => ?_⟩⟩
  · rw [sequencerMove_refresh hp, if_pos ((State.barrierPassed_iff s).2 h)]
  · rw [sequencerMove_refresh hp, if_neg (barrierPassed_eq_false h)]
  · rw [sequencerMove_dispatch hp, if_pos ((State.barrierPassed_iff s).2 h)]
  · rw [sequencerMove_dispatch hp, if_neg (barrierPassed_eq_false h)]

/-- Settles O45: `computeMove` by what `pdOutcome` answers, which is what COMPUTE.PD answers at the host port. -/
theorem computeLeadsToDispatch : Obligations.ComputeLeadsToDispatch := by
  unfold Obligations.ComputeLeadsToDispatch
  refine fun s hp => ⟨fun hm => ?imp, fun hm hnax hkp hkd hlimit => ?pd⟩
  case imp => exact ⟨_, (sequencerMove_compute hp).trans (computeMove_imp hm), rfl, axis_enterDispatch s⟩
  case pd =>
    have hconf : PdConfigured s := ⟨hnax, hkp, hkd, hlimit⟩
    rw [sequencerMove_compute hp]
    refine ⟨fun h0 => computeMove_invalid hm (hconf.pdOutcome_first_invalid h0),
      fun h0 h1 => computeMove_invalid hm (hconf.pdOutcome_second_invalid h0 h1), fun h0 h1 => ?_⟩
    obtain ⟨u₀, u₁, hlaw⟩ := hconf.pdOutcome_torques h0 h1
    have hactive (j : AxisIx) : (s.setTorques u₀ u₁).active j = decide (j.val < 2) := by
      rw [active_setTorques, State.active, hnax]
    refine ⟨_, u₀, u₁, computeMove_torques hm hlaw, rfl, exec_computePd_torques rfl hlaw, ?_, ?_, fun j hj0 hj1 => ?_⟩
    · rw [axis_enterDispatch, hactive, axis_setTorques_zero]
      rfl
    · rw [axis_enterDispatch, hactive, axis_setTorques_one]
      rfl
    · have hout : ¬ j.val < 2 := fun hlt => by
        obtain h | h : j.val = 0 ∨ j.val = 1 := by omega
        · exact hj0 (Fin.ext h)
        · exact hj1 (Fin.ext h)
      rw [axis_enterDispatch, hactive, axis_setTorques_ne s _ _ hj0 hj1, decide_eq_false hout]
      rfl

/-- Settles O46: `timingMove_eq` and `sleepMove_eq`, on both sides of their bounds. -/
theorem timingAndSleep : Obligations.TimingAndSleep := by
  unfold Obligations.TimingAndSleep
  refine fun s p hper => ⟨fun hp => ?timing, fun hp => ?sleep⟩
  case timing =>
    rw [sequencerMove_timing hp, timingMove_eq hper]
    exact ⟨fun h => by rw [if_neg (Nat.not_le.2 h)], fun h => by rw [if_pos h]⟩
  case sleep =>
    rw [sequencerMove_sleep hp, sleepMove_eq hper]
    exact ⟨fun h => by rw [if_pos h], fun h => by rw [if_neg (Nat.not_le.2 h)]⟩

end Sys2Proof.Proofs
end

section
/-! PROOF. Refusals of the operations that use a channel (`60_exceptions.md` R296, R300; `46_session.md` R232), and the frame of
the operations that use none (`10_state.md` R49). -/

namespace Sys2Proof.Machine

variable {s : State} {k : AxisIx} {c a : Byte} {p : List Byte} {n : Nat} {r : RefuseReason} {i : Instr}

/-! ### Before the channel is used -/

theorem channelRefusal_of_busy (hb : s.busy = true) (k : AxisIx) (n : Nat) : s.channelRefusal k n = some .busy := if_pos hb

theorem channelRefusal_of_unset (hb : s.busy = false) (h : (s.axis k).axisId = none) (n : Nat) :
    s.channelRefusal k n = some .config := by
  simp [State.channelRefusal, hb, State.usableId_eq_none_of_unset h]

theorem channelRefusal_of_no_tRead (hb : s.busy = false) (hT : s.tRead = none) (hn : 0 < n) :
    s.channelRefusal k n = some .config := by
  simp [State.channelRefusal, hb, hT, hn]

theorem refuses_transact (h : s.channelRefusal k n = some r) : Refuses (.transact k c p n) s r := by
  simp only [Refuses, exec_transact, execTransact, h]

theorem refuses_fireforget (h : s.channelRefusal k 0 = some r) : Refuses (.fireforget k c p) s r := by
  simp only [Refuses, exec_fireforget, execFireforget, h]

theorem refuses_refresh (h : s.channelRefusal k 14 = some r) : Refuses (.refresh k) s r := by
  simp only [Refuses, exec_refresh, execRefresh, h]

theorem refuses_impedance {x v kp kd t : Rat} (h : s.channelRefusal k 0 = some r) :
    Refuses (.impedance k x v kp kd t) s r := by
  simp only [Refuses, exec_impedance, execImpedance, h]

theorem exec_computePd_busy (hb : s.busy = true) : Refuses .computePd s .busy := by
  simp [Refuses, exec_computePd, execComputePd, hb]

/-! ### After the discard (R232(h); assumption 25) -/

theorem request_too_long (ha : (s.axis k).axisId = some a) (hp : 255 < p.length) :
    request s k c p = (.refused .encodeRange, chDiscard s k) := by
  simp [request, ha, Codec.build, buildFrame_refused (c := c) (a := a) (.inl hp)]

theorem hostTransact_too_long (ha : (s.axis k).axisId = some a) (hp : 255 < p.length) (n : Nat) :
    hostTransact s k c p n = (.refused .encodeRange, chDiscard s k) := by
  simp only [hostTransact, request_too_long ha hp]

theorem exec_transact_too_long (hfree : s.channelRefusal k n = none) (ha : (s.axis k).axisId = some a)
    (hp : 255 < p.length) :
    exec (.transact k c p n) s = .next ((chDiscard s k).answer (.refused .encodeRange)) := by
  simp only [exec_transact, execTransact, hfree, hostTransact_too_long ha hp, Reply.toResult]

theorem exec_fireforget_too_long (hfree : s.channelRefusal k 0 = none) (ha : (s.axis k).axisId = some a)
    (hp : 255 < p.length) :
    exec (.fireforget k c p) s = .next ((chDiscard s k).answer (.refused .encodeRange)) := by
  simp only [exec_fireforget, execFireforget, hfree, hostFireForget, hostTransact_too_long ha hp]

/-! ### Operations that use no channel -/

/-- The instruction completes, and changes no more than the host's `TXBUF`, its stream registers and the result. -/
def FillsTxbuf (i : Instr) (s : State) : Prop :=
  ∃ u, exec i s = .next u ∧
    u = { s with
      host := { s.host with txbuf := u.host.txbuf, st := u.host.st }
      port := { s.port with result := u.port.result } }

/-- The instruction completes, and changes no more than the result. -/
def OnlyAnswers (i : Instr) (s : State) : Prop :=
  ∃ u, exec i s = .next u ∧ u = { s with port := { s.port with result := u.port.result } }

theorem fillsTxbuf_of_encodeWire {pl : Except RefuseReason (List Byte)} (h : exec i s = .next (encodeWire s k c pl)) :
    FillsTxbuf i s := by
  obtain ⟨r, hr⟩ | ⟨a, p, f, -, -, -, hf⟩ := encodeWire_spec s k c pl
  · exact ⟨_, h.trans (congrArg _ hr), rfl⟩
  · exact ⟨_, h.trans (congrArg _ hf), rfl⟩

theorem fillsTxbuf_build (c a : Byte) (p : List Byte) (s : State) : FillsTxbuf (.build c a p) s := by
  cases hf : buildFrame c a p with
  | error r => exact ⟨_, exec_build.trans (execBuild_error hf), rfl⟩
  | ok f => exact ⟨_, exec_build.trans (execBuild_ok hf), rfl⟩

theorem exec_validate_frame (n : Nat) (s : State) :
    ∃ u, exec (.validate n) s = .next u ∧
      u = { s with host := { s.host with st := u.host.st }, port := { s.port with result := u.port.result } } := by
  obtain rfl | hn := Nat.eq_zero_or_pos n
  · exact ⟨_, exec_validate.trans execValidate_zero, rfl⟩
  · exact ⟨_, exec_validate.trans (execValidate_pos hn), rfl⟩

theorem exec_quant_frame (x mn mx : Rat) (bits : Nat) (s : State) :
    ∃ u, exec (.quant x mn mx bits) s = .next u ∧
      u = { s with qout := u.qout, port := { s.port with result := u.port.result } } := by
  cases hq : quantChecked x mn mx bits with
  | error r => exact ⟨_, refuses_quant_of_error hq, rfl⟩
  | ok r => exact ⟨_, exec_quant_of_ok hq, rfl⟩

theorem onlyAnswers_of_ite {P : Prop} [Decidable P] {r r' : Result}
    (h : exec i s = if P then .next (s.answer r) else .next (s.answer r')) : OnlyAnswers i s := by
  split at h
  all_goals exact ⟨_, h, rfl⟩

end Sys2Proof.Machine

namespace Sys2Proof.Proofs

open Sys2Proof Sys2Proof.Machine

/-- Settles O26: every refusal but BUILD's is one of `channelRefusal`; BUILD's comes after the discard. -/
theorem channelOperationRefusals : Obligations.ChannelOperationRefusals := by
  unfold Obligations.ChannelOperationRefusals
  intro k c p n x v kp kd t s
  refine ⟨fun hb i hi => ?busy, fun hb hunset i hi => ?unset, fun hb hT hn => ?noTRead, fun hb hp a hid => ?tooLong⟩
  case busy =>
    have hrefused := channelRefusal_of_busy hb k
    simp only [List.mem_cons, List.not_mem_nil, or_false] at hi
    obtain rfl | rfl | rfl | rfl | rfl | rfl := hi
    · exact refuses_transact (hrefused n)
    · exact refuses_fireforget (hrefused 0)
    · exact refuses_refresh (hrefused 14)
    · exact refuses_impedance (hrefused 0)
    · exact exec_computePd_busy hb
    · exact exec_run_busy hb
  case unset =>
    have hrefused := channelRefusal_of_unset hb hunset
    simp only [List.mem_cons, List.not_mem_nil, or_false] at hi
    obtain rfl | rfl | rfl | rfl := hi
    · exact refuses_transact (hrefused n)
    · exact refuses_fireforget (hrefused 0)
    · exact refuses_refresh (hrefused 14)
    · exact refuses_impedance (hrefused 0)
  case noTRead =>
    exact ⟨refuses_transact (channelRefusal_of_no_tRead hb hT hn),
      refuses_refresh (channelRefusal_of_no_tRead hb hT (by decide))⟩
  case tooLong =>
    obtain ⟨ha, -⟩ := State.usableId_eq_some.1 hid
    have hfree {m : Nat} (hm : 0 < m → ∃ T, s.tRead = some T) : s.channelRefusal k m = none :=
      State.channelRefusal_eq_none.2 ⟨hb, ⟨a, hid⟩, hm⟩
    refine ⟨fun hT => exec_transact_too_long (hfree fun hn => ?_) ha hp,
      exec_fireforget_too_long (hfree fun h => absurd h (lt_irrefl 0)) ha hp⟩
    exact Option.isSome_iff_exists.1 (hT.resolve_left (Nat.ne_of_gt hn))

/-- Settles O32: the encodes are `encodeWire`, and the others have an equation each. -/
theorem codecOperationsStayInside : Obligations.CodecOperationsStayInside := by
  unfold Obligations.CodecOperationsStayInside
  intro k s b c a raw n q₀ q₁ q₂ q₃ q₄
  refine ⟨fun i hi => ?encodes, exec_validate_frame n s, fun i hi => ?answers, fun i hi => ?adder,
    exec_quant_frame q₀ q₁ q₂ n s, ⟨_, exec_imppack, rfl⟩⟩
  case encodes =>
    change FillsTxbuf i s
    simp only [List.mem_cons, List.not_mem_nil, or_false] at hi
    obtain rfl | rfl | rfl | rfl | rfl | rfl | rfl | rfl | rfl | rfl | rfl | rfl | rfl | rfl | rfl | rfl | rfl | rfl | rfl |
      rfl | rfl | rfl | rfl | rfl | rfl := hi
    iterate 24 exact fillsTxbuf_of_encodeWire rfl
    exact fillsTxbuf_build c a raw s
  case answers =>
    change OnlyAnswers i s
    simp only [List.mem_cons, List.not_mem_nil, or_false] at hi
    obtain rfl | rfl | rfl | rfl | rfl | rfl := hi
    · exact ⟨_, exec_csumRd, rfl⟩
    · exact ⟨_, exec_csum8, rfl⟩
    · exact onlyAnswers_of_ite (exec_decMtang.trans execDecMtang_eq)
    · exact onlyAnswers_of_ite (exec_decStat2.trans execDecStat2_eq)
    · exact onlyAnswers_of_ite (exec_decStang.trans execDecStang_eq)
    · exact ⟨_, exec_isvalid, rfl⟩
  case adder =>
    simp only [List.mem_cons, List.not_mem_nil, or_false] at hi
    obtain rfl | rfl := hi
    · exact ⟨_, exec_csumClr, rfl⟩
    · exact ⟨_, exec_csumAdd, rfl⟩

end Sys2Proof.Proofs
end

section
/-! PROOF. The transactions of the workers and of the sequencer (`46_session.md` R231; `47_sequencer.md` R252 to R254, R258, R266,
R278). Six moves are a move of TRANSACT and what follows from its end, so each is an `Exchange`, and what such a move can do is
said once. -/

namespace Sys2Proof.Machine

variable {s t u : State} {k : AxisIx} {e : Event} {a : Byte}

/-! ### A move made of a transaction -/

/-- The transaction of a move on channel `axis`, and what follows from a failure and from a reply; a reply that means nothing
is the model's fault (assumption 29). -/
structure Exchange where
  axis : AxisIx
  cmd : Byte
  payload : List Byte
  replyLen : Nat
  fail : ErrKind → State → State
  done : List Byte → State → Option State

/-- One move of the transaction itself. -/
def Exchange.transact (x : Exchange) (s : State) : Option Reply × State :=
  agentTransact s x.axis x.cmd x.payload x.replyLen

def Exchange.move (x : Exchange) (s : State) : Step :=
  match x.transact s with
  | (none, u) => .next u
  | (some (.refused _), _) => .fault .configLost
  | (some (.err e), u) => .next (x.fail e u)
  | (some (.ok q), u) =>
    match x.done q u with
    | none => .fault .configLost
    | some t => .next t

/-- How such a move can end. -/
inductive ExchangeEnd (x : Exchange) (s : State) : State → Prop where
  /-- the transaction has begun or goes on -/
  | pending (u : State) (h : x.transact s = (none, u)) : ExchangeEnd x s u
  /-- it has failed -/
  | failed (e : ErrKind) (u : State) (h : x.transact s = (some (.err e), u)) : ExchangeEnd x s (x.fail e u)
  /-- it has delivered its reply -/
  | done (q : List Byte) (u t : State) (h : x.transact s = (some (.ok q), u)) (hd : x.done q u = some t) :
    ExchangeEnd x s t

theorem Exchange.move_ends {x : Exchange} (h : x.move s = .next t) : ExchangeEnd x s t := by
  unfold Exchange.move at h
  split at h
  next u hx =>
    cases h
    exact .pending _ hx
  next => cases h
  next e u hx =>
    cases h
    exact .failed e u hx
  next q u hx =>
    split at h
    next => cases h
    next hd =>
      cases h
      exact .done q u t hx hd

/-- A transaction in progress. -/
theorem Exchange.inProgress {x : Exchange} (h : x.transact s = (none, u)) : InProgress x.axis s u :=
  agentTransact_inProgress h

theorem Exchange.ended_of_err {x : Exchange} {e : ErrKind} (h : x.transact s = (some (.err e), u)) : Ended x.axis s u :=
  agentTransact_ended (by simp) h

theorem Exchange.ended_of_ok {x : Exchange} {q : List Byte} (h : x.transact s = (some (.ok q), u)) : Ended x.axis s u :=
  agentTransact_ended (by simp) h

/-- What follows from the end of a move of the transaction. -/
def Exchange.Follows (x : Exchange) (r : Option Reply) (u t : State) : Prop :=
  match r with
  | none => t = u
  | some (.ok q) => x.done q u = some t
  | some (.err e) => t = x.fail e u
  | some (.refused _) => False

/-- On an axis with a legal id the move is one of TRANSACT, in full. -/
theorem ExchangeEnd.transactMove {x : Exchange} (h : ExchangeEnd x s t) (ha : (s.axis x.axis).axisId = some a)
    (h1 : 1 ≤ a.toNat) (h32 : a.toNat ≤ 32) (hp : x.payload.length ≤ 255)
    (hT : (s.axis x.axis).wait ≠ none → s.tRead.isSome = true) :
    ∃ r u, TransactMove x.axis a x.cmd x.payload x.replyLen s r u ∧ x.Follows r u t := by
  have hmove : TransactMove x.axis a x.cmd x.payload x.replyLen s (x.transact s).1 (x.transact s).2 :=
    agentTransact_move x.replyLen ha h1 h32 hp hT
  refine ⟨_, _, hmove, ?_⟩
  cases h with
  | pending u h => rw [h]; rfl
  | failed e u h => rw [h]; rfl
  | done q u t h hd => rw [h]; exact hd

/-- The move has a next state if the transaction is not refused and every reply of its length means something. -/
theorem Exchange.exists_next {x : Exchange} (hr : ∀ r, (x.transact s).1 ≠ some (.refused r))
    (hd : ∀ q u, q.length = x.replyLen - 6 → ∃ t, x.done q u = some t) : ∃ t, x.move s = .next t := by
  obtain ⟨-, -, hlen, -⟩ := agentTransact_spec s x.axis x.cmd x.payload x.replyLen
  change ∀ q, (x.transact s).1 = some (.ok q) → _ at hlen
  unfold Exchange.move
  rcases hx : x.transact s with ⟨_ | r | err | q, u⟩
  · exact ⟨_, rfl⟩
  · exact absurd (congrArg Prod.fst hx) (hr r)
  · exact ⟨_, rfl⟩
  · obtain ⟨t, ht⟩ := hd q u (hlen q (congrArg Prod.fst hx))
    simp only [ht]
    exact ⟨t, rfl⟩

/-! ### The six exchanges -/

/-- The first transaction of a refresh (R240). -/
def angleExchange (k : AxisIx) : Exchange where
  axis := k
  cmd := 0x92
  payload := []
  replyLen := 14
  fail e u := (refreshFail u k .refreshAngle e).finish k
  done q u := (decMtang q).map fun raw => u.modAxis k fun a => { a with held := raw, wstep := .t2 }

/-- The second transaction of a refresh (R240). -/
def statusExchange (k : AxisIx) : Exchange where
  axis := k
  cmd := 0x9C
  payload := []
  replyLen := 13
  fail e u := (refreshFail u k .refreshStatus e).finish k
  done q u := (decStat2 q).map fun r => (refreshDone u k (u.axis k).held r).finish k

/-- The torque command (R266, R269). -/
def torqueExchange (k : AxisIx) (iq : Rat) : Exchange where
  axis := k
  cmd := 0xA1
  payload := torquePayload iq
  replyLen := Machine.replyLen 0xA1
  fail e u := (u.report (.err u.ticks k .dispatch e)).finish k
  done _ u := some (u.finish k)

/-- The command of a step of `Startup` (R253, R254). -/
def StartStep.cmd : StartStep → Byte
  | .enable => 0x88
  | .zero => zeroCmdId

def StartStep.site : StartStep → Site
  | .enable => .startupEnable
  | .zero => .startupZero

/-- What the reply to a step of `Startup` brings about (R253, R254). -/
def StartStep.advance (st : StartStep) (k : AxisIx) (u : State) : State :=
  match st with
  | .enable => { u.modAxis k (fun a => { a with life := .enabled }) with seqStep := .zero }
  | .zero => { u.modAxis k (fun a => { a with life := .zeroed }) with seqStep := .enable, seqAxis := u.seqAxis + 1 }

/-- The transaction of a step of `Startup` (R252 to R256). -/
def startupExchange (st : StartStep) (k : AxisIx) : Exchange where
  axis := k
  cmd := st.cmd
  payload := []
  replyLen := Machine.replyLen st.cmd
  fail e u := startupFail u k st.site e
  done _ u := some (st.advance k u)

/-- The disable attempt (R278). -/
def disableExchange (k : AxisIx) : Exchange where
  axis := k
  cmd := 0x80
  payload := []
  replyLen := Machine.replyLen 0x80
  fail e u := { u.report (.err u.ticks k .shutdownDisable e) with seqAxis := u.seqAxis + 1 }
  done _ u := some { u.modAxis k (fun a => { a with life := .disabled }) with seqAxis := u.seqAxis + 1 }

/-- The moves of agents that are one of the six. -/
inductive Makes (s : State) : Event → Exchange → Prop where
  | angle (k : AxisIx) (hk : s.active k = true) (hp : s.phase = .refresh) (hs : (s.axis k).wstep = .t1) :
    Makes s (.worker k) (angleExchange k)
  | status (k : AxisIx) (hk : s.active k = true) (hp : s.phase = .refresh) (hs : (s.axis k).wstep = .t2) :
    Makes s (.worker k) (statusExchange k)
  | torque (k : AxisIx) (iq : Rat) (hk : s.active k = true) (hp : s.phase = .dispatch) (hm : s.mode = .pd)
      (hs : (s.axis k).wstep = .cmd) (hq : (s.axis k).tq = some iq) : Makes s (.worker k) (torqueExchange k iq)
  | startup (k : AxisIx) (hp : s.phase = .startup) (hc : s.currentAxis = some k) :
    Makes s .sequencer (startupExchange s.seqStep k)
  | disable (k : AxisIx) (hp : s.phase = .shutdown) (hc : s.currentAxis = some k) :
    Makes s .sequencer (disableExchange k)

theorem refreshMove_angle (hs : (s.axis k).wstep = .t1) : refreshMove s k = (angleExchange k).move s := by
  simp only [refreshMove, hs, Exchange.move, Exchange.transact, angleExchange]
  rcases agentTransact s k 0x92 [] 14 with ⟨_ | r | err | q, u⟩
  · rfl
  · rfl
  · rfl
  · dsimp only
    cases decMtang q <;> rfl

theorem refreshMove_status (hs : (s.axis k).wstep = .t2) : refreshMove s k = (statusExchange k).move s := by
  simp only [refreshMove, hs, Exchange.move, Exchange.transact, statusExchange]
  rcases agentTransact s k 0x9C [] 13 with ⟨_ | r | err | q, u⟩
  · rfl
  · rfl
  · rfl
  · dsimp only
    cases decStat2 q <;> rfl

theorem dispatchPdMove_torque {iq : Rat} (hq : (s.axis k).tq = some iq) :
    dispatchPdMove s k = (torqueExchange k iq).move s := by
  rcases hx : agentTransact s k 0xA1 (torquePayload iq) (replyLen 0xA1) with ⟨_ | r | err | q, u⟩
  all_goals simp only [dispatchPdMove, hq, Exchange.move, Exchange.transact, torqueExchange, hx]

/-- While the sequencer is at an axis, `NAX` is set. -/
theorem nax_of_currentAxis (hc : s.currentAxis = some k) : ∃ n, s.nax = some n :=
  have ⟨n, hn, _⟩ := State.active_iff.1 (State.currentAxis_some hc).2
  ⟨n, hn⟩

theorem startupMove_exchange (hc : s.currentAxis = some k) : startupMove s = (startupExchange s.seqStep k).move s := by
  obtain ⟨n, hn⟩ := nax_of_currentAxis hc
  cases hstep : s.seqStep with
  | enable =>
    simp only [startupMove, hn, hc, hstep, Exchange.move, Exchange.transact, startupExchange, StartStep.cmd]
    rcases agentTransact s k 0x88 [] (replyLen 0x88) with ⟨_ | r | err | q, u⟩ <;> rfl
  | zero =>
    simp only [startupMove, hn, hc, hstep, Exchange.move, Exchange.transact, startupExchange, StartStep.cmd]
    rcases agentTransact s k zeroCmdId [] (replyLen zeroCmdId) with ⟨_ | r | err | q, u⟩ <;> rfl

theorem shutdownMove_exchange (hc : s.currentAxis = some k) : shutdownMove s = (disableExchange k).move s := by
  obtain ⟨n, hn⟩ := nax_of_currentAxis hc
  rcases hx : agentTransact s k 0x80 [] (replyLen 0x80) with ⟨_ | r | err | q, u⟩
  all_goals simp only [shutdownMove, hn, hc, Exchange.move, Exchange.transact, disableExchange, hx]

theorem workerMove_refresh (hk : s.active k = true) (hp : s.phase = .refresh) : workerMove s k = refreshMove s k := by
  simp only [workerMove, hk, if_true, hp]

theorem workerMove_dispatch_pd (hk : s.active k = true) (hp : s.phase = .dispatch) (hm : s.mode = .pd)
    (hs : (s.axis k).wstep = .cmd) : workerMove s k = dispatchPdMove s k := by
  simp only [workerMove, hk, if_true, hp, hs, hm]

theorem workerMove_dispatch_imp (h : CommandPending s k) : workerMove s k = dispatchImpMove s k := by
  obtain ⟨hk, hp, hm, hs⟩ := h
  simp only [workerMove, hk, if_true, hp, hs, hm]

theorem Makes.move {x : Exchange} (h : Makes s e x) : agentMove e s = x.move s := by
  cases h with
  | angle k hk hp hs => exact (workerMove_refresh hk hp).trans (refreshMove_angle hs)
  | status k hk hp hs => exact (workerMove_refresh hk hp).trans (refreshMove_status hs)
  | torque k iq hk hp hm hs hq => exact (workerMove_dispatch_pd hk hp hm hs).trans (dispatchPdMove_torque hq)
  | startup k hp hc => exact (sequencerMove_startup hp).trans (startupMove_exchange hc)
  | disable k hp hc => exact (sequencerMove_shutdown hp).trans (shutdownMove_exchange hc)

/-- An exchange is on an axis that exists. -/
theorem Makes.active {x : Exchange} (h : Makes s e x) : s.active x.axis = true := by
  cases h with
  | angle k hk | status k hk | torque k iq hk => exact hk
  | startup k _ hc | disable k _ hc => exact (State.currentAxis_some hc).2

theorem Makes.payload_length {x : Exchange} (h : Makes s e x) : x.payload.length ≤ 255 := by
  cases h with
  | torque k iq =>
    have hlen : (torquePayload iq).length = 2 := torquePayloadBy_length _ iq
    exact hlen.trans_le (by decide)
  | angle | status | startup | disable => exact Nat.zero_le _

/-- Every reply of the length an exchange reads has a meaning for it. -/
theorem Makes.done_total {x : Exchange} (h : Makes s e x) (q : List Byte) (u : State) (hq : q.length = x.replyLen - 6) :
    ∃ t, x.done q u = some t := by
  cases h with
  | angle k =>
    obtain ⟨raw, hraw⟩ := decMtang_of_length hq
    exact ⟨_, congrArg (Option.map _) hraw⟩
  | status k =>
    obtain ⟨st, hst⟩ := decStat2_of_length hq
    exact ⟨_, congrArg (Option.map _) hst⟩
  | torque | startup | disable => exact ⟨_, rfl⟩

/-! ### Which moves they are -/

/-- A worker waits, makes an exchange, has its setpoints to send, or lacks its torque. -/
theorem workerMove_kinds (s : State) (k : AxisIx) :
    workerMove s k = .next s ∨ (∃ x, Makes s (.worker k) x) ∨ CommandPending s k ∨
      (s.phase = .dispatch ∧ s.mode = .pd ∧ (s.axis k).wstep = .cmd ∧ (s.axis k).tq = none ∧
        workerMove s k = .fault .configLost) := by
  by_cases hk : s.active k = true
  · cases hp : s.phase
    case refresh =>
      cases hs : (s.axis k).wstep with
      | t1 => exact .inr (.inl ⟨_, .angle k hk hp hs⟩)
      | t2 => exact .inr (.inl ⟨_, .status k hk hp hs⟩)
      | cmd | done => simp [workerMove, hk, hp, refreshMove, hs]
    case dispatch =>
      by_cases hs : (s.axis k).wstep = .cmd
      · cases hm : s.mode with
        | imp => exact .inr (.inr (.inl ⟨hk, hp, hm, hs⟩))
        | pd =>
          cases hq : (s.axis k).tq with
          | none =>
            have hfault : dispatchPdMove s k = .fault .configLost := by simp [dispatchPdMove, hq]
            exact .inr (.inr (.inr ⟨rfl, rfl, hs, rfl, (workerMove_dispatch_pd hk hp hm hs).trans hfault⟩))
          | some iq => exact .inr (.inl ⟨_, .torque k iq hk hp hm hs hq⟩)
      · simp [workerMove, hk, hp, hs]
    all_goals simp [workerMove, hk, hp]
  · exact .inl (workerMove_inactive hk)

/-- A worker whose move has a next state waits, makes an exchange, or sends its setpoints. -/
theorem workerMove_cases (h : workerMove s k = .next t) :
    t = s ∨ (∃ x, Makes s (.worker k) x) ∨ (CommandPending s k ∧ dispatchImpMove s k = .next t) := by
  obtain hwaits | hx | hpending | ⟨-, -, -, -, hfault⟩ := workerMove_kinds s k
  · exact .inl (Host.Outcome.next.inj (h.symm.trans hwaits))
  · exact .inr (.inl hx)
  · exact .inr (.inr ⟨hpending, (workerMove_dispatch_imp hpending).symm.trans h⟩)
  · cases hfault.symm.trans h

/-- Past the last axis all axes become `Running` (R255). -/
theorem startupMove_last (hc : s.currentAxis = none) (h : startupMove s = .next t) :
    t = { s.modActive (fun a => { a with life := .running }) with phase := .between } := by
  unfold startupMove at h
  simp only [hc] at h
  split at h
  next => cases h
  next =>
    cases h
    rfl
  next hsome => cases hsome

/-- Past the last axis the move of `Startup` is free (R255). -/
theorem startupMove_past {n : Nat} (hn : s.nax = some n) (hc : s.currentAxis = none) :
    startupMove s = .next { s.modActive (fun a => { a with life := .running }) with phase := .between } := by
  simp only [startupMove, hn, hc]

/-- Past the last axis the move of `Shutdown` is free (R278). -/
theorem shutdownMove_past {n : Nat} (hn : s.nax = some n) (hc : s.currentAxis = none) :
    shutdownMove s = .next { s with phase := .halted } := by
  simp only [shutdownMove, hn, hc]

/-- Past the last axis the block is `Halted` (R278). -/
theorem shutdownMove_last (hc : s.currentAxis = none) (h : shutdownMove s = .next t) : t = { s with phase := .halted } := by
  unfold shutdownMove at h
  simp only [hc] at h
  split at h
  next => cases h
  next =>
    cases h
    rfl
  next hsome => cases hsome

/-- How a move of the sequencer can end, phase by phase (R250). -/
inductive SequencerEnd (s : State) : State → Prop where
  /-- no run -/
  | rests (hp : s.phase = .idle ∨ s.phase = .halted) : SequencerEnd s s
  /-- a transaction of `Startup` or `Shutdown` -/
  | stage (x : Exchange) (t : State) (hx : Makes s .sequencer x) (h : ExchangeEnd x s t) : SequencerEnd s t
  /-- `Startup` past the last axis -/
  | started (hp : s.phase = .startup) (hc : s.currentAxis = none) :
    SequencerEnd s { s.modActive (fun a => { a with life := .running }) with phase := .between }
  /-- `Shutdown` past the last axis -/
  | halts (hp : s.phase = .shutdown) (hc : s.currentAxis = none) : SequencerEnd s { s with phase := .halted }
  | ticks (hp : s.phase = .tickStart) : SequencerEnd s (tickStartMove s)
  /-- a worker holds the phase -/
  | waits (hp : s.phase = .refresh ∨ s.phase = .dispatch) (hb : s.barrierPassed ≠ true) : SequencerEnd s s
  | refreshed (hp : s.phase = .refresh) (hb : s.barrierPassed = true) : SequencerEnd s { s with phase := .check }
  | dispatched (hp : s.phase = .dispatch) (hb : s.barrierPassed = true) : SequencerEnd s { s with phase := .timing }
  | skips (hp : s.phase = .check) (hn : s.skipNeeded = true) :
    SequencerEnd s { s.report (.skip s.ticks) with skip := true, phase := .timing }
  | checks (hp : s.phase = .check) (hn : s.skipNeeded = false) : SequencerEnd s { s with skip := false, phase := .compute }
  | commands (hp : s.phase = .compute) (hm : s.mode = .imp) : SequencerEnd s s.enterDispatch
  | computes (u₀ u₁ : Rat) (hp : s.phase = .compute) (hm : s.mode = .pd) (h : pdOutcome s = .torques u₀ u₁) :
    SequencerEnd s (s.setTorques u₀ u₁).enterDispatch
  | invalid (k : AxisIx) (hp : s.phase = .compute) (hm : s.mode = .pd) (h : pdOutcome s = .invalid k) :
    SequencerEnd s ({ s with phase := .timing }.report (.err s.ticks k .compute .controlPrecondition))
  | overruns (p : Nat) (hp : s.phase = .timing) (hper : s.period = some p) (h : p ≤ s.now - s.tStart) :
    SequencerEnd s
      ({ s with tEnd := s.now, overrun := true, phase := .between }.report (.overrun s.ticks (s.now - s.tStart)))
  | inTime (p : Nat) (hp : s.phase = .timing) (hper : s.period = some p) (h : s.now - s.tStart < p) :
    SequencerEnd s { s with tEnd := s.now, overrun := false, phase := .sleep }
  | sleeps (p : Nat) (hp : s.phase = .sleep) (hper : s.period = some p) (h : s.now < s.tStart + p) : SequencerEnd s s
  | wakes (p : Nat) (hp : s.phase = .sleep) (hper : s.period = some p) (h : s.tStart + p ≤ s.now) :
    SequencerEnd s { s with phase := .between }
  | cancelled (hp : s.phase = .between) (hc : s.cancel = true) : SequencerEnd s { s with phase := .shutdown, seqAxis := 0 }
  | goesOn (hp : s.phase = .between) (hc : s.cancel = false) : SequencerEnd s { s with phase := .tickStart }

theorem computeMove_ends (hp : s.phase = .compute) (h : computeMove s = .next t) : SequencerEnd s t := by
  unfold computeMove at h
  split at h
  next hm =>
    cases h
    exact .commands hp hm
  next hm =>
    split at h
    next => cases h
    next k hlaw =>
      cases h
      exact .invalid k hp hm hlaw
    next u₀ u₁ hlaw =>
      cases h
      exact .computes u₀ u₁ hp hm hlaw

theorem timingMove_ends (hp : s.phase = .timing) (h : timingMove s = .next t) : SequencerEnd s t := by
  cases hper : s.period with
  | none =>
    simp only [timingMove, hper] at h
    cases h
  | some p =>
    obtain rfl := Host.Outcome.next.inj ((timingMove_eq hper).symm.trans h)
    split
    next hover => exact .overruns p hp hper hover
    next hover => exact .inTime p hp hper (Nat.not_le.1 hover)

theorem sleepMove_ends (hp : s.phase = .sleep) (h : sleepMove s = .next t) : SequencerEnd s t := by
  cases hper : s.period with
  | none =>
    simp only [sleepMove, hper] at h
    cases h
  | some p =>
    obtain rfl := Host.Outcome.next.inj ((sleepMove_eq hper).symm.trans h)
    split
    next hlate => exact .wakes p hp hper hlate
    next hlate => exact .sleeps p hp hper (Nat.not_le.1 hlate)

theorem sequencerMove_ends (h : sequencerMove s = .next t) : SequencerEnd s t := by
  cases hp : s.phase
  case idle | halted =>
    simp only [sequencerMove, hp] at h
    cases h
    exact .rests (by simp [hp])
  case startup =>
    cases hc : s.currentAxis with
    | none =>
      rw [startupMove_last hc ((sequencerMove_startup hp).symm.trans h)]
      exact .started hp hc
    | some k => exact .stage _ t (.startup k hp hc) (Exchange.move_ends ((Makes.startup k hp hc).move.symm.trans h))
  case shutdown =>
    cases hc : s.currentAxis with
    | none =>
      rw [shutdownMove_last hc ((sequencerMove_shutdown hp).symm.trans h)]
      exact .halts hp hc
    | some k => exact .stage _ t (.disable k hp hc) (Exchange.move_ends ((Makes.disable k hp hc).move.symm.trans h))
  case tickStart =>
    obtain rfl := Host.Outcome.next.inj ((sequencerMove_tickStart hp).symm.trans h)
    exact .ticks hp
  case refresh =>
    obtain rfl := Host.Outcome.next.inj ((sequencerMove_refresh hp).symm.trans h)
    split
    next hb => exact .refreshed hp hb
    next hb => exact .waits (.inl hp) hb
  case dispatch =>
    obtain rfl := Host.Outcome.next.inj ((sequencerMove_dispatch hp).symm.trans h)
    split
    next hb => exact .dispatched hp hb
    next hb => exact .waits (.inr hp) hb
  case check =>
    obtain rfl := Host.Outcome.next.inj ((sequencerMove_check hp).symm.trans h)
    unfold checkMove
    split
    next hn => exact .skips hp hn
    next hn => exact .checks hp (Bool.eq_false_iff.2 hn)
  case compute => exact computeMove_ends hp ((sequencerMove_compute hp).symm.trans h)
  case timing => exact timingMove_ends hp ((sequencerMove_timing hp).symm.trans h)
  case sleep => exact sleepMove_ends hp ((sequencerMove_sleep hp).symm.trans h)
  case between =>
    obtain rfl := Host.Outcome.next.inj ((sequencerMove_between hp).symm.trans h)
    unfold betweenMove
    split
    next hc => exact .cancelled hp hc
    next hc => exact .goesOn hp (Bool.eq_false_iff.2 hc)

end Sys2Proof.Machine
end

section
/-! PROOF. `Startup` and `Shutdown`, axis by axis (`47_sequencer.md` R252 to R256, R278): what each exchange of the sequencer
leaves on its axis and in the registers of the place. -/

namespace Sys2Proof.Machine

variable {s t u : State} {k : AxisIx} {st : StartStep} {r : Option Reply}

/-! ### What an exchange of the sequencer writes -/

/-- Of axis `k` the channel and the lifecycle are written, of the other axes nothing. -/
structure StageAxes (k : AxisIx) (s t : State) : Prop where
  other : ∀ j, j ≠ k → t.axis j = s.axis j
  axis : t.axis k = { s.axis k with
    rxq := (t.axis k).rxq, txh := (t.axis k).txh, codec := (t.axis k).codec, wait := (t.axis k).wait,
    life := (t.axis k).life }

theorem ChannelMoved.stageAxes (h : ChannelMoved k s t) : StageAxes k s t where
  other := fun _ => h.frame.other
  axis := by
    conv_lhs => rw [h.frame.2.2]
    rw [h.frame.channels.axis_life k]

/-- Registers of no axis are written beside. -/
theorem StageAxes.beside (h : StageAxes k s u) (ha : t.axes = u.axes) : StageAxes k s t where
  other := fun j hj => (State.axis_congr ha j).trans (h.other j hj)
  axis := by
    rw [State.axis_congr ha]
    exact h.axis

theorem StageAxes.writeLife (h : StageAxes k s u) (l : Life) :
    StageAxes k s (u.modAxis k fun a => { a with life := l }) where
  other := fun j hj => (u.axis_modAxis_ne _ hj).trans (h.other j hj)
  axis := by
    rw [State.axis_modAxis_self]
    conv_lhs => rw [h.axis]

theorem StageAxes.advance (h : StageAxes k s u) (st : StartStep) : StageAxes k s (st.advance k u) := by
  cases st with
  | enable => exact (h.writeLife .enabled).beside rfl
  | zero => exact (h.writeLife .zeroed).beside rfl

theorem stageAxes_of_startup (h : ExchangeEnd (startupExchange st k) s t) : StageAxes k s t := by
  cases h with
  | pending u h => exact (Exchange.inProgress h).stageAxes
  | failed e u h => exact (Exchange.ended_of_err h).stageAxes.beside rfl
  | done q u t h hd =>
    obtain rfl : st.advance k u = t := Option.some.inj hd
    exact (Exchange.ended_of_ok h).stageAxes.advance st

theorem stageAxes_of_disable (h : ExchangeEnd (disableExchange k) s t) : StageAxes k s t := by
  cases h with
  | pending u h => exact (Exchange.inProgress h).stageAxes
  | failed e u h => exact (Exchange.ended_of_err h).stageAxes.beside rfl
  | done q u t h hd =>
    cases hd
    exact ((Exchange.ended_of_ok h).stageAxes.writeLife .disabled).beside rfl

/-! ### Startup -/

/-- The read goes on, or the step is made, or the block goes to `Shutdown` with one record. -/
inductive StartupMoved (s : State) (k : AxisIx) (t : State) : Prop where
  | reads (hp : t.phase = s.phase) (hl : (t.axis k).life = (s.axis k).life) (hr : t.rlog = s.rlog)
      (hx : t.seqAxis = s.seqAxis) (hs : t.seqStep = s.seqStep) (hw : (t.axis k).wait.isSome = true)
  | enabled (hp : t.phase = s.phase) (hstep : s.seqStep = .enable) (hl : (t.axis k).life = .enabled) (hr : t.rlog = s.rlog)
      (hx : t.seqAxis = s.seqAxis) (hs : t.seqStep = .zero) (hw : (t.axis k).wait = none)
  | zeroed (hp : t.phase = s.phase) (hstep : s.seqStep = .zero) (hl : (t.axis k).life = .zeroed) (hr : t.rlog = s.rlog)
      (hx : t.seqAxis = s.seqAxis + 1) (hs : t.seqStep = .enable) (hw : (t.axis k).wait = none)
  | failed (e : ErrKind) (hp : t.phase = .shutdown) (hl : (t.axis k).life = (s.axis k).life) (hx : t.seqAxis = 0)
      (hw : (t.axis k).wait = none) (hr : t.rlog = s.rlog ++ [.err 0 k s.seqStep.site e])

theorem startupMoved_of_end (h : ExchangeEnd (startupExchange s.seqStep k) s t) : StartupMoved s k t := by
  cases h with
  | pending u h =>
    have hu := Exchange.inProgress h
    have hc := hu.frame.channels
    exact .reads hc.phase (hc.axis_life k) hc.rlog hc.seqAxis hc.seqStep (Option.isSome_iff_exists.2 ⟨_, hu.wait⟩)
  | failed e u h =>
    have hu := Exchange.ended_of_err h
    have hc := hu.frame.channels
    exact .failed e rfl (hc.axis_life k) rfl hu.wait (congrArg (· ++ _) hc.rlog)
  | done q u t h hd =>
    have hu := Exchange.ended_of_ok h
    have hc := hu.frame.channels
    obtain rfl : s.seqStep.advance k u = t := Option.some.inj hd
    have hwait {l : Life} : ((u.modAxis k fun a => { a with life := l }).axis k).wait = none := by
      rw [State.axis_modAxis_self]
      exact hu.wait
    have hlife {l : Life} : ((u.modAxis k fun a => { a with life := l }).axis k).life = l := by
      rw [State.axis_modAxis_self]
    cases hstep : s.seqStep with
    | enable => exact .enabled hc.phase hstep hlife hc.rlog hc.seqAxis rfl hwait
    | zero => exact .zeroed hc.phase hstep hlife hc.rlog (congrArg (· + 1) hc.seqAxis) rfl hwait

/-! ### Shutdown -/

/-- The read goes on, or the axis is disabled, or the failure is recorded. -/
theorem disable_moved (h : ExchangeEnd (disableExchange k) s t) :
    t.phase = s.phase ∧
      ((t.seqAxis = s.seqAxis ∧ (t.axis k).life = (s.axis k).life ∧ t.rlog = s.rlog ∧ (t.axis k).wait.isSome = true) ∨
        (t.seqAxis = s.seqAxis + 1 ∧ (t.axis k).life = .disabled ∧ t.rlog = s.rlog ∧ (t.axis k).wait = none) ∨
        (t.seqAxis = s.seqAxis + 1 ∧ (t.axis k).life = (s.axis k).life ∧ (t.axis k).wait = none ∧
          ∃ e, t.rlog = s.rlog ++ [.err s.ticks k .shutdownDisable e])) := by
  cases h with
  | pending u h =>
    have hu := Exchange.inProgress h
    have hc := hu.frame.channels
    exact ⟨hc.phase, .inl ⟨hc.seqAxis, hc.axis_life k, hc.rlog, Option.isSome_iff_exists.2 ⟨_, hu.wait⟩⟩⟩
  | failed e u h =>
    have hu := Exchange.ended_of_err h
    have hc := hu.frame.channels
    refine ⟨hc.phase, .inr (.inr ⟨congrArg (· + 1) hc.seqAxis, hc.axis_life k, hu.wait, e, ?_⟩)⟩
    change u.rlog ++ [.err u.ticks k .shutdownDisable e] = _
    rw [hc.rlog, hc.ticks]
  | done q u t h hd =>
    cases hd
    have hu := Exchange.ended_of_ok h
    have hc := hu.frame.channels
    refine ⟨hc.phase, .inr (.inl ⟨congrArg (· + 1) hc.seqAxis, ?_, hc.rlog, ?_⟩)⟩
    · exact congrArg Axis.life (u.axis_modAxis_self k fun a => { a with life := .disabled })
    · exact (congrArg Axis.wait (u.axis_modAxis_self k fun a => { a with life := .disabled })).trans hu.wait

end Sys2Proof.Machine

namespace Sys2Proof.Proofs

open Sys2Proof Sys2Proof.Machine

/-- Settles O41: a move at an axis is the exchange of its step, whose ends are `StartupMoved`; the other one is past the last
axis. -/
theorem startupGoesAxisByAxis : Obligations.StartupGoesAxisByAxis := by
  unfold Obligations.StartupGoesAxisByAxis
  refine ⟨fun h => by rw [zeroCmdId, h], fun h => by rw [zeroCmdId, h], fun s t hp hmove =>
    ⟨fun hc => ?last, fun k hc => ?atAxis⟩⟩
  case last =>
    obtain rfl := startupMove_last hc ((sequencerMove_startup hp).symm.trans hmove)
    exact ⟨rfl, axis_startupRunning s⟩
  case atAxis =>
    have hend := Exchange.move_ends ((Makes.startup k hp hc).move.symm.trans hmove)
    have haxes := stageAxes_of_startup hend
    refine ⟨fun a ha h1 h32 hT => ?transaction, haxes.other, haxes.axis, ?moved⟩
    case transaction =>
      obtain ⟨r, u, htransact, hfollows⟩ := hend.transactMove ha h1 h32 (Nat.zero_le _) hT
      refine ⟨_, r, u, ?_, htransact, ?_⟩
      · cases s.seqStep <;> rfl
      · have hx := htransact.1.channels.seqAxis
        cases hstep : s.seqStep
        all_goals
          rw [hstep] at hfollows
          obtain _ | r | e | q := r
        case enable.some.ok | zero.some.ok =>
          rw [← hx]
          exact (Option.some.inj hfollows).symm
        all_goals exact hfollows
    case moved =>
      cases startupMoved_of_end hend with
      | reads hp' hl hr hx hs hw => exact .inl ⟨hp'.trans hp, hl, hr, hx, hs, hw⟩
      | enabled hp' hstep hl hr hx hs hw => exact .inr (.inl ⟨hp'.trans hp, hstep, hl, hr, hx, hs, hw⟩)
      | zeroed hp' hstep hl hr hx hs hw => exact .inr (.inr (.inl ⟨hp'.trans hp, hstep, hl, hr, hx, hs, hw⟩))
      | failed e hp' hl hx hw hr =>
        refine .inr (.inr (.inr ⟨hp', hl, hx, hw, e, hr.trans ?_⟩))
        cases s.seqStep <;> rfl

/-- Settles O42: a move at an axis is the exchange of the disable command; the other one is past the last axis. -/
theorem shutdownAttemptsEveryAxis : Obligations.ShutdownAttemptsEveryAxis := by
  unfold Obligations.ShutdownAttemptsEveryAxis
  refine fun s t hp hmove => ⟨fun hc => ?last, fun k hc => ?atAxis⟩
  case last => exact shutdownMove_last hc ((sequencerMove_shutdown hp).symm.trans hmove)
  case atAxis =>
    have hend := Exchange.move_ends ((Makes.disable k hp hc).move.symm.trans hmove)
    have haxes := stageAxes_of_disable hend
    obtain ⟨hp', hmoved⟩ := disable_moved hend
    refine ⟨fun a ha h1 h32 hT => ?_, hp'.trans hp, haxes.other, haxes.axis, hmoved⟩
    obtain ⟨r, u, htransact, hfollows⟩ := hend.transactMove ha h1 h32 (Nat.zero_le _) hT
    refine ⟨r, u, htransact, ?_⟩
    have hc := htransact.1.channels
    rw [← hc.seqAxis, ← hc.ticks]
    obtain _ | r | e | q := r
    case some.ok => exact (Option.some.inj hfollows).symm
    all_goals exact hfollows

end Sys2Proof.Proofs
end

section
/-! PROOF. What the moves leave of every axis: a reading `g` of an axis that ignores what a move writes is the same after it
(`20_memory.md` R67, R78). -/

namespace Sys2Proof.Machine

variable {s t u : State} {k : AxisIx} {e : Event} {α : Type} {g : Axis → α}

/-- Of every axis, `t` has what `g` reads as `s` has it. -/
def SameOn (g : Axis → α) (s t : State) : Prop := ∀ k, g (t.axis k) = g (s.axis k)

theorem SameOn.trans (h₁ : SameOn g s t) (h₂ : SameOn g t u) : SameOn g s u := fun k => (h₂ k).trans (h₁ k)

theorem sameOn_modAxis (s : State) (k : AxisIx) {f : Axis → Axis} (hf : ∀ a, g (f a) = g a) : SameOn g s (s.modAxis k f) := by
  intro j
  rw [State.axis_modAxis]
  split
  next h => rw [hf, h]
  next => rfl

theorem sameOn_modActive (s : State) {f : Axis → Axis} (hf : ∀ a, g (f a) = g a) : SameOn g s (s.modActive f) := by
  intro j
  rw [State.axis_modActive]
  split
  next => exact hf _
  next => rfl

theorem sameOn_setTorques (s : State) (u₀ u₁ : Rat) (hf : ∀ a q, g { a with tq := some q } = g a) :
    SameOn g s (s.setTorques u₀ u₁) :=
  (sameOn_modAxis s 0 fun a => hf a u₀).trans (sameOn_modAxis _ 1 fun a => hf a u₁)

/-- `g` reads nothing of an axis that the host, a device or a sample writes in a run. -/
def IgnoresInputs (g : Axis → α) : Prop :=
  ∀ a b : Axis,
    b = { a with
      axisId := b.axisId, chAddr := b.chAddr, baud := b.baud, pDes := b.pDes, vDes := b.vDes, tFf := b.tFf, rxq := b.rxq,
      smp := b.smp } → g b = g a

theorem configWrite_sameOn (legal : Bool) {w : State} (hw : SameOn g s w) : SameOn g s (configWrite s legal w) := by
  obtain ⟨r, h⟩ | ⟨-, -, h⟩ := configWrite_cases s legal w
  all_goals rw [h]
  · exact fun _ => rfl
  · exact hw

theorem hostWrite_sameOn (hg : IgnoresInputs g) (w : RegWrite) (s : State) : SameOn g s (hostWrite w s) := by
  cases w with
  | nax | kp | kd | limit | period | tRead | mode | required => exact configWrite_sameOn _ fun _ => rfl
  | axisId k | chAddr k | baud k => exact configWrite_sameOn _ (sameOn_modAxis s k fun a => hg a _ rfl)
  | pDes k v => exact sameOn_modAxis s k (f := fun a => { a with pDes := v }) fun a => hg a _ rfl
  | vDes k v => exact sameOn_modAxis s k (f := fun a => { a with vDes := v }) fun a => hg a _ rfl
  | tFf k v => exact sameOn_modAxis s k (f := fun a => { a with tFf := v }) fun a => hg a _ rfl
  | rxbuf bytes => exact fun k => by rw [(hostWrite_rxbuf_inside bytes s).axis k]

theorem sampleMove_sameOn (hg : IgnoresInputs g) (s : State) (k : AxisIx) (r : Setpoint) : SameOn g s (sampleMove s k r) := by
  unfold sampleMove
  split
  next =>
    refine sameOn_modAxis s k fun a => hg a _ ?_
    rw [Axis.sample_frame]
  next => exact fun _ => rfl

/-- An agent that is not of the block: the host, a device, time; or a worker that samples. -/
def OutsideAgent (e : Event) : Prop := e ≠ .sequencer ∧ ∀ k, e ≠ .worker k

theorem agentMove_sameOn (hg : IgnoresInputs g) (he : OutsideAgent e) (h : agentMove e s = .next t) : SameOn g s t := by
  obtain ⟨hsequencer, hworker⟩ := he
  cases e with
  | sequencer => exact absurd rfl hsequencer
  | worker k => exact absurd rfl (hworker k)
  | request | read | time =>
    cases h
    exact fun _ => rfl
  | write w =>
    cases h
    exact hostWrite_sameOn hg w s
  | device k bytes =>
    cases h
    exact sameOn_modAxis s k fun a => hg a _ rfl
  | sample k r =>
    cases h
    exact sampleMove_sameOn hg s k r

/-! ### The block's own agents -/

theorem finish_sameOn (hg : ∀ a : Axis, g { a with wstep := .done } = g a) (u : State) (k : AxisIx) :
    SameOn g u (u.finish k) := sameOn_modAxis u k hg

theorem refreshFail_sameOn (hg : ∀ a : Axis, g { a with pos := none, vel := none, trq := none } = g a) (u : State)
    (k : AxisIx) (site : Site) (err : ErrKind) : SameOn g u (refreshFail u k site err) :=
  have hgroup : SameOn g u (u.setGroup k none) := sameOn_modAxis u k hg
  hgroup.trans fun _ => rfl

theorem advance_sameOn (hg : ∀ (a : Axis) l, g { a with life := l } = g a) (st : StartStep) (k : AxisIx) (u : State) :
    SameOn g u (st.advance k u) := by
  cases st with
  | enable => exact sameOn_modAxis u k (f := fun a => { a with life := .enabled }) fun a => hg a _
  | zero => exact sameOn_modAxis u k (f := fun a => { a with life := .zeroed }) fun a => hg a _

/-- `g` reads nothing of an axis that the sequencer writes outside its exchanges. -/
def IgnoresTick (g : Axis → α) : Prop :=
  ∀ a b : Axis, b = { a with life := b.life, tq := b.tq, wstep := b.wstep } → g b = g a

theorem enterDispatch_sameOn (hg : IgnoresTick g) (s : State) : SameOn g s s.enterDispatch :=
  sameOn_modActive s (f := fun a => { a with wstep := .cmd }) fun a => hg a _ rfl

/-- Outside its exchanges the sequencer leaves what `g` reads. -/
theorem SequencerEnd.sameOn_or_stage (hg : IgnoresTick g) (h : SequencerEnd s t) :
    SameOn g s t ∨ ∃ x, Makes s .sequencer x ∧ ExchangeEnd x s t := by
  cases h with
  | stage x t hx h => exact .inr ⟨x, hx, h⟩
  | started => exact .inl (sameOn_modActive s (f := fun a => { a with life := .running }) fun a => hg a _ rfl)
  | ticks => exact .inl (sameOn_modActive s (f := fun a => { a with tq := none, wstep := .t1 }) fun a => hg a _ rfl)
  | commands => exact .inl (enterDispatch_sameOn hg s)
  | computes u₀ u₁ =>
    exact .inl ((sameOn_setTorques s u₀ u₁ fun a q => hg a _ rfl).trans (enterDispatch_sameOn hg _))
  | rests | halts | waits | refreshed | dispatched | skips | checks | invalid | overruns | inTime | sleeps | wakes
      | cancelled | goesOn => exact .inl fun _ => rfl

/-- An exchange of the sequencer is on one axis. -/
theorem Makes.sequencer_other {x : Exchange} (hx : Makes s .sequencer x) (h : ExchangeEnd x s t) {j : AxisIx}
    (hj : j ≠ x.axis) : t.axis j = s.axis j := by
  cases hx with
  | startup k => exact (stageAxes_of_startup h).other j hj
  | disable k => exact (stageAxes_of_disable h).other j hj

theorem Makes.worker_axis {x : Exchange} (hx : Makes s (.worker k) x) : x.axis = k := by
  cases hx with
  | angle | status | torque => rfl

end Sys2Proof.Machine
end

section
/-! PROOF. The workers (`46_session.md` R240, R241; `47_sequencer.md` R258, R266 to R269): what the two exchanges of a refresh and
the torque command leave, what the impedance command leaves, and who writes the held angle. -/

namespace Sys2Proof.Machine

variable {s t u : State} {k : AxisIx} {a : Byte} {r : Option Reply} {p q : List Byte} {raw : BitVec 64} {st : Stat2}

/-! ### Refresh -/

theorem decMtang_eq_some : decMtang p = some raw ↔ p.length = 8 ∧ raw = BitVec.ofNat 64 (memRead p 0 8) := by
  unfold decMtang
  split
  next h => simp [h, eq_comm]
  next h => simp [h]

theorem decStat2_eq_some (h : decStat2 p = some st) :
    p.length = 7 ∧ st.spd = BitVec.ofNat 16 (memRead p 3 2) ∧ st.cur = BitVec.ofNat 16 (memRead p 1 2) := by
  unfold decStat2 at h
  split at h
  next hlen =>
    cases h
    exact ⟨hlen, rfl, rfl⟩
  next => cases h

/-- The catcher of a refresh, and the worker done: one update of axis `k` and one record (R240). -/
theorem refreshFail_finish (u : State) (k : AxisIx) (site : Site) (e : ErrKind) :
    (((refreshFail u k site e).finish k).axis k).wstep = .done ∧
      (((refreshFail u k site e).finish k).axis k).group = (none, none, none) ∧
      ((refreshFail u k site e).finish k).rlog = u.rlog ++ [.err u.ticks k site e] := by
  refine ⟨?_, ?_, rfl⟩
  all_goals
    rw [State.finish, State.axis_modAxis_self]
  rw [refreshFail, State.axis_report, State.setGroup, State.axis_modAxis_self]
  rfl

/-- The group update of a refresh, and the worker done (R240, R258). -/
theorem refreshDone_finish (u : State) (k : AxisIx) (raw : BitVec 64) (st : Stat2) :
    (refreshDone u k raw st).finish k =
      u.modAxis k fun x => { x with pos := some raw, vel := some st.spd, trq := some st.cur, wstep := .done } := by
  simp only [refreshDone, State.finish, State.setGroup, State.modAxis, State.setAxis, State.axis]
  congr 1
  simp

/-- How a move of a worker in the refresh phase can end. -/
inductive RefreshMoved (s : State) (k : AxisIx) (t : State) : Prop where
  | stays (hg : (t.axis k).group = (s.axis k).group) (hr : t.rlog = s.rlog)
      (hs : (t.axis k).wstep = (s.axis k).wstep ∨ ((s.axis k).wstep = .t1 ∧ (t.axis k).wstep = .t2))
  | failed (site : Site) (e : ErrKind) (hs : (t.axis k).wstep = .done) (hg : (t.axis k).group = (none, none, none))
      (hsite : ((s.axis k).wstep = .t1 ∧ site = .refreshAngle) ∨ ((s.axis k).wstep = .t2 ∧ site = .refreshStatus))
      (hr : t.rlog = s.rlog ++ [.err s.ticks k site e])
  | updated (vel trq : BitVec 16) (hs : (s.axis k).wstep = .t2) (hs' : (t.axis k).wstep = .done) (hr : t.rlog = s.rlog)
      (hg : (t.axis k).group = (some (s.axis k).held, some vel, some trq))

theorem refreshMoved_of_pending (h : InProgress k s t) : RefreshMoved s k t :=
  have hc := h.frame.channels
  .stays (hc.axis_group k) hc.rlog (.inl (hc.axis_wstep k))

theorem refreshMoved_of_fail {site : Site} (h : Ended k s u) (e : ErrKind)
    (hsite : ((s.axis k).wstep = .t1 ∧ site = .refreshAngle) ∨ ((s.axis k).wstep = .t2 ∧ site = .refreshStatus)) :
    RefreshMoved s k ((refreshFail u k site e).finish k) := by
  have hc := h.frame.channels
  obtain ⟨hstep, hgroup, hrlog⟩ := refreshFail_finish u k site e
  exact .failed site e hstep hgroup hsite (by rw [hrlog, hc.rlog, hc.ticks])

theorem refreshMoved_of_angle (hs : (s.axis k).wstep = .t1) (h : ExchangeEnd (angleExchange k) s t) : RefreshMoved s k t := by
  cases h with
  | pending u h => exact refreshMoved_of_pending (Exchange.inProgress h)
  | failed e u h => exact refreshMoved_of_fail (Exchange.ended_of_err h) e (.inl ⟨hs, rfl⟩)
  | done q u t h hd =>
    obtain ⟨raw, -, rfl⟩ := Option.map_eq_some_iff.1 hd
    have hc := (Exchange.ended_of_ok h).frame.channels
    refine .stays ?_ hc.rlog (.inr ⟨hs, ?_⟩)
    · rw [State.axis_modAxis_self]
      exact hc.axis_group k
    · rw [State.axis_modAxis_self]

theorem refreshMoved_of_status (hs : (s.axis k).wstep = .t2) (h : ExchangeEnd (statusExchange k) s t) :
    RefreshMoved s k t := by
  cases h with
  | pending u h => exact refreshMoved_of_pending (Exchange.inProgress h)
  | failed e u h => exact refreshMoved_of_fail (Exchange.ended_of_err h) e (.inr ⟨hs, rfl⟩)
  | done q u t h hd =>
    obtain ⟨st, -, rfl⟩ := Option.map_eq_some_iff.1 hd
    have hc := (Exchange.ended_of_ok h).frame.channels
    rw [refreshDone_finish]
    refine .updated st.spd st.cur hs ?_ hc.rlog ?_
    · rw [State.axis_modAxis_self]
    · rw [State.axis_modAxis_self, ← hc.axis_held k]
      rfl

/-! ### The held angle -/

/-- `t` has the held angles of `s`. -/
abbrev SameHeld (s t : State) : Prop := SameOn Axis.held s t

theorem ChannelMoved.sameHeld (h : ChannelMoved k s t) : SameHeld s t := h.frame.channels.axis_held

theorem HostUpdate.sameHeld (h : HostUpdate s t) : SameHeld s t := by
  cases h with
  | inside h => exact fun k => by rw [h.axis k]
  | channel k _ h => exact h.frame.channels.axis_held
  | group k g => exact sameOn_modAxis s k fun _ => rfl
  | torques t0 t1 => exact sameOn_setTorques s t0 t1 fun _ _ => rfl
  | run => exact fun _ => rfl

theorem HostUpdates.sameHeld (h : HostUpdates s t) : SameHeld s t := by
  induction h with
  | refl => exact fun _ => rfl
  | tail _ hu ih => exact ih.trans hu.sameHeld

theorem StageAxes.sameHeld (h : StageAxes k s t) : SameHeld s t := fun j => by
  by_cases hj : j = k
  · subst hj
    rw [h.axis]
  · rw [h.other j hj]

/-- Of the exchanges only a successful first transaction of a refresh writes a held angle. -/
theorem Makes.sameHeld_or_angle {x : Exchange} {e : Event} (hx : Makes s e x) (h : ExchangeEnd x s t) :
    SameHeld s t ∨
      e = .worker x.axis ∧ s.phase = .refresh ∧ (s.axis x.axis).wstep = .t1 ∧ (t.axis x.axis).wstep = .t2 := by
  have hfinish (u : State) (k : AxisIx) : SameHeld u (u.finish k) := finish_sameOn (fun _ => rfl) u k
  have hfail (u : State) (k : AxisIx) (site : Site) (err : ErrKind) : SameHeld u ((refreshFail u k site err).finish k) :=
    (refreshFail_sameOn (fun _ => rfl) u k site err).trans (hfinish _ k)
  cases hx with
  | angle k hk hp hs =>
    cases h with
    | pending u h => exact .inl (Exchange.inProgress h).sameHeld
    | failed err u h => exact .inl ((Exchange.ended_of_err h).sameHeld.trans (hfail u k _ err))
    | done q u t h hd =>
      obtain ⟨raw, -, rfl⟩ := Option.map_eq_some_iff.1 hd
      exact .inr ⟨rfl, hp, hs, congrArg Axis.wstep (u.axis_modAxis_self k _)⟩
  | status k =>
    cases h with
    | pending u h => exact .inl (Exchange.inProgress h).sameHeld
    | failed err u h => exact .inl ((Exchange.ended_of_err h).sameHeld.trans (hfail u k _ err))
    | done q u t h hd =>
      obtain ⟨st, -, rfl⟩ := Option.map_eq_some_iff.1 hd
      rw [refreshDone_finish]
      exact .inl ((Exchange.ended_of_ok h).sameHeld.trans (sameOn_modAxis u k fun _ => rfl))
  | torque k =>
    cases h with
    | pending u h => exact .inl (Exchange.inProgress h).sameHeld
    | failed err u h => exact .inl ((Exchange.ended_of_err h).sameHeld.trans (hfinish (u.report _) k))
    | done q u t h hd =>
      cases hd
      exact .inl ((Exchange.ended_of_ok h).sameHeld.trans (hfinish u k))
  | startup k => exact .inl (stageAxes_of_startup h).sameHeld
  | disable k => exact .inl (stageAxes_of_disable h).sameHeld

theorem dispatchImpMove_sameHeld (hp : CommandPending s k) (h : dispatchImpMove s k = .next t) : SameHeld s t := by
  obtain ⟨-, hphase, hmode, -⟩ := hp
  cases dispatchImpMove_ends hphase hmode h with
  | waits => exact fun _ => rfl
  | pending u hu => exact hu.sameHeld
  | angle u raw _ hp => simp [hphase] at hp
  | refreshed u v g hp => simp [hphase] at hp
  | torque u v _ hm => simp [hmode] at hm
  | setpoints u v _ _ hu _ hv =>
    have hreported : SameHeld s v := hu.sameHeld.trans fun j => by rw [hv.axis j]
    have hcleared : SameHeld v (v.clearSamples k) := sameOn_modAxis v k fun _ => rfl
    exact (hreported.trans hcleared).trans (finish_sameOn (fun _ => rfl) _ k)

/-- A move of an agent that changes the held angle of axis `k` is the end of worker `k`'s first transaction. -/
theorem angle_of_agentMove_changes {e : Event} (h : agentMove e s = .next t) (hne : (t.axis k).held ≠ (s.axis k).held) :
    e = .worker k ∧ s.phase = .refresh ∧ (s.axis k).wstep = .t1 ∧ (t.axis k).wstep = .t2 := by
  by_cases hout : OutsideAgent e
  · exact absurd (agentMove_sameOn (g := Axis.held) (fun _ _ hb => by rw [hb]) hout h k) hne
  · cases e with
    | worker j =>
      have hkj : k = j := by
        by_contra hkj
        exact hne (by rw [(workerMove_ends h).oneAxis.other k hkj])
      subst hkj
      obtain rfl | ⟨x, hx⟩ | ⟨hpending, himp⟩ := workerMove_cases h
      · exact absurd rfl hne
      · obtain hsame | ⟨haxis, hrest⟩ := hx.sameHeld_or_angle (Exchange.move_ends (hx.move.symm.trans h))
        · exact absurd (hsame k) hne
        · obtain rfl : k = x.axis := Event.worker.inj haxis
          exact ⟨rfl, hrest⟩
      · exact absurd (dispatchImpMove_sameHeld hpending himp k) hne
    | sequencer =>
      obtain hsame | ⟨x, hx, hend⟩ := (sequencerMove_ends h).sameOn_or_stage (g := Axis.held) fun _ _ hb => by rw [hb]
      · exact absurd (hsame k) hne
      · obtain hsame | ⟨he, -⟩ := hx.sameHeld_or_angle hend
        · exact absurd (hsame k) hne
        · cases he
    | request | write | read | device | time | sample => exact absurd ⟨nofun, nofun⟩ hout

/-! ### Dispatch -/

/-- The impedance command: the frame, or a leading part of it and one record; the worker is done and its samples are used up
(R268; `46_session.md` R234). -/
structure ImpSent (s : State) (k : AxisIx) (f : List Byte) (t : State) : Prop where
  axis : ∃ cd, t.axis k = { s.axis k with
    rxq := s.drawLink.1.arrive, txh := (s.axis k).txh ++ sentPart s.drawLink.1 f, codec := cd, smp := {}, wstep := .done }
  whole : s.drawLink.1.sent = none → t.rlog = s.rlog
  part : ∀ j, s.drawLink.1.sent = some j → t.rlog = s.rlog ++ [.err s.ticks k .dispatch .transport]

theorem impSent_of_request {cd : Codec} {f : List Byte} {v : State} (hk : u.axis k = { s.axis k with
      rxq := s.drawLink.1.arrive, txh := (s.axis k).txh ++ sentPart s.drawLink.1 f, codec := cd })
    (hv : v.axis k = u.axis k) (hwhole : s.drawLink.1.sent = none → v.rlog = s.rlog)
    (hpart : ∀ j, s.drawLink.1.sent = some j → v.rlog = s.rlog ++ [.err s.ticks k .dispatch .transport]) :
    ImpSent s k f ((v.clearSamples k).finish k) where
  axis := ⟨cd, by rw [State.finish, State.axis_modAxis_self, State.clearSamples, State.axis_modAxis_self, hv, hk]⟩
  whole := hwhole
  part := hpart

theorem dispatchImpMove_sends {kp kd : Rat} (hkp : s.kp = some kp) (hkd : s.kd = some kd)
    (ha : (s.axis k).axisId = some a) (h1 : 1 ≤ a.toNat) (h32 : a.toNat ≤ 32) :
    ∃ t, dispatchImpMove s k = .next t ∧
      ImpSent s k (frameBytes 0xA8 a (impPayload (s.axis k).setpoints.1 (s.axis k).setpoints.2.1 kp kd
        (s.axis k).setpoints.2.2)) t := by
  simp only [dispatchImpMove, hkp, hkd, fireForget]
  generalize hpl : impPayload (s.axis k).setpoints.1 (s.axis k).setpoints.2.1 kp kd (s.axis k).setpoints.2.2 = pl
  have hlen : pl.length ≤ 255 := by rw [← hpl, impPayload_length]; decide
  have hframe := buildFrame_frameBytes (c := 0xA8) hlen h1 h32
  have hreq := request_spec s k 0xA8 pl
  generalize request s k 0xA8 pl = x at hreq
  obtain ⟨snt, v⟩ := x
  cases hreq with
  | noId h => simp [ha] at h
  | noFrame a' h hf =>
    obtain rfl : a = a' := Option.some.inj (ha.symm.trans h)
    cases hframe.symm.trans hf
  | failed a' f j _ h hf hs hc hn hk =>
    obtain rfl : a = a' := Option.some.inj (ha.symm.trans h)
    obtain rfl : frameBytes 0xA8 a pl = f := Except.ok.inj (hframe.symm.trans hf)
    rw [← sentPart_of_some hs] at hk
    exact ⟨_, rfl, impSent_of_request hk rfl (fun h => by simp [hs] at h) fun _ _ => congrArg (· ++ _) hc.channels.rlog⟩
  | sent a' f _ h hf hs hc hn hk =>
    obtain rfl : a = a' := Option.some.inj (ha.symm.trans h)
    obtain rfl : frameBytes 0xA8 a pl = f := Except.ok.inj (hframe.symm.trans hf)
    rw [← sentPart_of_none hs (frameBytes 0xA8 a pl)] at hk
    exact ⟨_, rfl, impSent_of_request hk rfl (fun _ => hc.channels.rlog) fun j h => by simp [hs] at h⟩

/-- What the first move of a transaction has written, and how it ended. -/
theorem TransactMove.first {c : Byte} {n : Nat} (h : TransactMove k a c p n s r t) (hw : (s.axis k).wait = none) :
    (t.axis k).rxq = s.drawLink.1.arrive ∧
      match s.drawLink.1.sent with
      | some j =>
        r = some (.err .transport) ∧ (t.axis k).txh = (s.axis k).txh ++ (frameBytes c a p).take j ∧ (t.axis k).wait = none
      | none =>
        (t.axis k).txh = (s.axis k).txh ++ frameBytes c a p ∧
          (if n = 0 then r = some (.ok []) ∧ (t.axis k).wait = none else r = none ∧ (t.axis k).wait = some s.now) := by
  obtain ⟨-, -, h⟩ := h
  rw [hw] at h
  exact h

/-- A transaction on a legal axis is not refused. -/
theorem TransactMove.not_refused {c : Byte} {n : Nat} (h : TransactMove k a c p n s r t) (why : RefuseReason) :
    r ≠ some (.refused why) := by
  obtain ⟨-, -, h⟩ := h
  rintro rfl
  cases hw : (s.axis k).wait with
  | none =>
    rw [hw] at h
    cases hsent : s.drawLink.1.sent with
    | none =>
      simp only [hsent] at h
      split at h <;> simp at h
    | some j => simp [hsent] at h
  | some since =>
    simp only [hw] at h
    obtain ⟨-, h⟩ := h
    split at h
    next => simp at h
    split at h
    next => split at h <;> simp at h
    next =>
      obtain ⟨T, -, h⟩ := h
      split at h <;> simp at h

/-- What follows from a move of the torque command, in the registers of the worker. -/
theorem torque_follows {iq : Rat} (h : (torqueExchange k iq).Follows r u t) :
    t = u ∧ r = none ∨ (∃ q, r = some (.ok q)) ∧ t = u.finish k ∨
      ∃ e, r = some (.err e) ∧ t = (u.report (.err u.ticks k .dispatch e)).finish k := by
  obtain _ | rr | e | q := r
  · exact .inl ⟨h, rfl⟩
  · exact h.elim
  · exact .inr (.inr ⟨e, rfl, h⟩)
  · exact .inr (.inl ⟨⟨q, rfl⟩, (Option.some.inj h).symm⟩)

end Sys2Proof.Machine

namespace Sys2Proof.Proofs

open Sys2Proof Sys2Proof.Machine

/-- Settles O48: only the end of the first transaction writes a held angle; the two exchanges of a refresh by their ends. -/
theorem refreshWorkerIsAllOrNothing : Obligations.RefreshWorkerIsAllOrNothing := by
  unfold Obligations.RefreshWorkerIsAllOrNothing
  refine ⟨fun s t k hstep hne => ?held,
    fun s t k hp hk hmove => ⟨fun a ha h1 h32 hT => ⟨fun hs => ?angle, fun hs => ?status⟩, ?ends⟩⟩
  case held =>
    cases hstart : s.port.start with
    | true =>
      have hsame : SameHeld s t := by
        cases hdec : decode s.placed with
        | error e =>
          obtain rfl := Host.Outcome.next.inj ((step_of_decode_error hstart hdec).symm.trans hstep)
          exact fun _ => rfl
        | ok i =>
          rw [step_of_decode_ok hstart hdec] at hstep
          exact (exec_updates hstep).sameHeld
      exact absurd (hsame k) hne
    | false =>
      rw [step_of_idle_port hstart] at hstep
      have hdrawn := inside_drawEvent s
      rw [← hdrawn.axis k] at hne ⊢
      obtain ⟨hworker, hphase, hs, ht⟩ := angle_of_agentMove_changes hstep hne
      exact ⟨rfl, hworker, hdrawn.phase.symm.trans hphase, hs, ht⟩
  case angle =>
    have hend := Exchange.move_ends ((Makes.angle k hk hp hs).move.symm.trans hmove)
    obtain ⟨r, u, htransact, hfollows⟩ := hend.transactMove ha h1 h32 (Nat.zero_le _) hT
    refine ⟨r, u, htransact, ?_⟩
    obtain _ | rr | e | q := r
    · exact hfollows
    · exact hfollows
    · rw [← htransact.1.channels.ticks]
      exact hfollows
    · obtain ⟨raw, hraw, rfl⟩ := Option.map_eq_some_iff.1 hfollows
      obtain ⟨hlen, rfl⟩ := decMtang_eq_some.1 hraw
      exact ⟨hlen, rfl⟩
  case status =>
    have hend := Exchange.move_ends ((Makes.status k hk hp hs).move.symm.trans hmove)
    obtain ⟨r, u, htransact, hfollows⟩ := hend.transactMove ha h1 h32 (Nat.zero_le _) hT
    refine ⟨r, u, htransact, ?_⟩
    obtain _ | rr | e | q := r
    · exact hfollows
    · exact hfollows
    · rw [← htransact.1.channels.ticks]
      exact hfollows
    · obtain ⟨st, hst, rfl⟩ := Option.map_eq_some_iff.1 hfollows
      obtain ⟨hlen, hspd, hcur⟩ := decStat2_eq_some hst
      refine ⟨hlen, ?_⟩
      rw [refreshDone_finish, hspd, hcur, htransact.1.channels.axis_held k]
  case ends =>
    have hmoved : RefreshMoved s k t := by
      obtain rfl | ⟨x, hx⟩ | ⟨⟨-, hdispatch, -⟩, -⟩ := workerMove_cases hmove
      · exact .stays rfl rfl (.inl rfl)
      · have hend := Exchange.move_ends (hx.move.symm.trans hmove)
        cases hx with
        | angle k _ _ hs => exact refreshMoved_of_angle hs hend
        | status k _ _ hs => exact refreshMoved_of_status hs hend
        | torque k iq _ hdispatch => simp [hp] at hdispatch
      · simp [hp] at hdispatch
    cases hmoved with
    | stays hg hr hs => exact .inl ⟨hg, hr, hs⟩
    | failed site e hs hg hsite hr => exact .inr (.inl ⟨hs, hg, site, e, hsite, hr⟩)
    | updated vel trq hs hs' hr hg => exact .inr (.inr ⟨hs, hs', hr, vel, trq, hg⟩)

/-- Settles O49: the move is the torque exchange, which a legal axis id and `T_READ` keep from refusing; of its first move the
registers by `TransactMove.first`. -/
theorem pdDispatchSendsTheTorque : Obligations.PdDispatchSendsTheTorque := by
  unfold Obligations.PdDispatchSendsTheTorque
  intro s k a iq hp hm hk hs hq ha h1 h32 hT
  have hx : Makes s (.worker k) (torqueExchange k iq) := .torque k iq hk hp hm hs hq
  have hlegal : TransactMove k a 0xA1 (torquePayload iq) _ s _ _ :=
    agentTransact_move (Machine.replyLen 0xA1) ha h1 h32 hx.payload_length hT
  obtain ⟨t, hmove⟩ := Exchange.exists_next (x := torqueExchange k iq) hlegal.not_refused hx.done_total
  obtain ⟨r, u, htransact, hfollows⟩ := (Exchange.move_ends hmove).transactMove ha h1 h32 hx.payload_length hT
  change TransactMove k a 0xA1 (torquePayload iq) (Machine.replyLen 0xA1) s r u at htransact
  have hgroup : (u.axis k).group = (s.axis k).group := by rw [htransact.1.2.2]; rfl
  have hlog : u.rlog = s.rlog := htransact.1.channels.rlog
  have hticks : u.ticks = s.ticks := htransact.1.channels.ticks
  have hstep : (u.axis k).wstep = .cmd := by rw [htransact.1.2.2]; exact hs
  refine ⟨t, r, u, hx.move.trans hmove, ?group, htransact, ?ends, fun hw => ?first⟩
  case group =>
    obtain ⟨rfl, -⟩ | ⟨-, rfl⟩ | ⟨e, -, rfl⟩ := torque_follows hfollows
    · exact hgroup
    · rw [State.finish, State.axis_modAxis_self]
      exact hgroup
    · rw [State.finish, State.axis_modAxis_self]
      exact hgroup
  case ends =>
    obtain ⟨rfl, rfl⟩ | ⟨⟨q, rfl⟩, rfl⟩ | ⟨e, rfl, rfl⟩ := torque_follows hfollows
    · rfl
    · rfl
    · rw [hticks]
      rfl
  case first =>
    obtain ⟨hrxq, hfirst⟩ := htransact.first hw
    cases hsent : s.drawLink.1.sent with
    | none =>
      simp only [hsent] at hfirst
      obtain ⟨htxh, hlast⟩ := hfirst
      split at hlast
      next h0 =>
        obtain ⟨rfl, hwait⟩ := hlast
        obtain rfl := Option.some.inj hfollows
        rw [State.finish, State.axis_modAxis_self, if_pos h0]
        exact ⟨hrxq, htxh, hlog, rfl, hwait⟩
      next h0 =>
        obtain ⟨rfl, hwait⟩ := hlast
        obtain rfl := hfollows
        rw [if_neg h0]
        exact ⟨hrxq, htxh, hlog, hstep, hwait⟩
    | some j =>
      simp only [hsent] at hfirst
      obtain ⟨rfl, htxh, hwait⟩ := hfirst
      obtain rfl := hfollows
      simp only [torqueExchange, State.finish, State.axis_modAxis_self]
      refine ⟨hrxq, htxh, ?_, trivial, hwait⟩
      rw [← hlog, ← hticks]
      rfl

/-- Settles O50: one FIREFORGET of the setpoints as the worker uses them. -/
theorem impDispatchSendsTheSetpoints : Obligations.ImpDispatchSendsTheSetpoints := by
  unfold Obligations.ImpDispatchSendsTheSetpoints
  rintro s k a kp kd hp hm hk hs hkp hkd ha h1 h32 pl rfl
  obtain ⟨t, hmove, ⟨cd, hax⟩, hwhole, hpart⟩ := dispatchImpMove_sends (k := k) hkp hkd ha h1 h32
  refine ⟨t, (workerMove_dispatch_imp ⟨hk, hp, hm, hs⟩).trans hmove, ?_⟩
  rw [hax]
  refine ⟨rfl, rfl, rfl, rfl, rfl, ?_⟩
  cases hsent : s.drawLink.1.sent with
  | none => exact ⟨congrArg (_ ++ ·) (sentPart_of_none hsent _), hwhole hsent⟩
  | some j => exact ⟨congrArg (_ ++ ·) (sentPart_of_some hsent _), hpart j hsent⟩

end Sys2Proof.Proofs
end

section
/-! PROOF. Nothing stops the machine (`60_exceptions.md` R296, R306): every instruction answers a next state, and in a well-kept
state no move of an agent misses a register that RUN has checked (`47_sequencer.md` R251). -/

namespace Sys2Proof.Machine

variable {s t u : State} {k : AxisIx} {e : Event} {i : Instr}

/-! ### Every instruction answers a next state -/

/-- The handshake at the port, the round of turns, the phase and `CANCEL`: what no instruction but RUN and CANCEL writes. -/
def State.round (s : State) : Bool × Fin 34 × Nat × Phase × Bool := (s.port.start, s.turn, s.slack, s.phase, s.cancel)

/-- The instruction completes, and keeps the round. -/
def KeepsRound (i : Instr) (s : State) : Prop := ∃ t, exec i s = .next t ∧ t.round = s.round

theorem StaysOnAxis.round (h : StaysOnAxis k s t) : t.round = s.round := (congrArg State.round h.eq :)

theorem FillsTxbuf.keepsRound (h : FillsTxbuf i s) : KeepsRound i s :=
  have ⟨t, ht, heq⟩ := h
  ⟨t, ht, (congrArg State.round heq :)⟩

theorem OnlyAnswers.keepsRound (h : OnlyAnswers i s) : KeepsRound i s :=
  have ⟨t, ht, heq⟩ := h
  ⟨t, ht, (congrArg State.round heq :)⟩

theorem keepsRound_computePd (s : State) : KeepsRound .computePd s := by
  cases hb : s.busy with
  | true => exact ⟨_, exec_computePd_busy hb, rfl⟩
  | false =>
    cases hlaw : pdOutcome s with
    | refused => exact ⟨_, exec_computePd_refused hb hlaw, rfl⟩
    | invalid k => exact ⟨_, exec_computePd_invalid hb hlaw, rfl⟩
    | torques u₀ u₁ => exact ⟨_, exec_computePd_torques hb hlaw, rfl⟩

theorem exec_keepsRound (s : State) (hrun : i ≠ .run) (hcancel : i ≠ .cancel) : KeepsRound i s := by
  cases i
  case transact k c p n =>
    obtain ⟨t, ht, hstays, -⟩ := execTransact_next s k c p n
    exact ⟨t, ht, hstays.round⟩
  case fireforget k c p =>
    obtain ⟨t, ht, hstays, -⟩ := execFireforget_next s k c p
    exact ⟨t, ht, hstays.round⟩
  case impedance k p v kp kd tq =>
    obtain ⟨t, ht, hstays, -⟩ := execImpedance_next s k p v kp kd tq
    exact ⟨t, ht, hstays.round⟩
  case refresh k =>
    obtain ⟨t, ht, hstays⟩ := execRefresh_next s k
    exact ⟨t, ht, hstays.round⟩
  case computePd => exact keepsRound_computePd s
  case run => exact absurd rfl hrun
  case cancel => exact absurd rfl hcancel
  case build c a p => exact (fillsTxbuf_build c a p s).keepsRound
  case validate n =>
    obtain ⟨t, ht, heq⟩ := exec_validate_frame n s
    exact ⟨t, ht, (congrArg State.round heq :)⟩
  case quant x mn mx bits =>
    obtain ⟨t, ht, heq⟩ := exec_quant_frame x mn mx bits s
    exact ⟨t, ht, (congrArg State.round heq :)⟩
  case decMtang => exact (onlyAnswers_of_ite (exec_decMtang.trans execDecMtang_eq)).keepsRound
  case decStat2 => exact (onlyAnswers_of_ite (exec_decStat2.trans execDecStat2_eq)).keepsRound
  case decStang => exact (onlyAnswers_of_ite (exec_decStang.trans execDecStang_eq)).keepsRound
  case csumClr | csumAdd | csumRd | csum8 | imppack | isvalid => exact ⟨_, rfl, rfl⟩
  case enable | disable | stop | clrerr | zero | zero95 | clrturn | rdstat1 | rdstat2 | rdenc | rdmtang | rdstang
      | openloop | torque | speed | pos | posspd | scpos | scposspd | incpos | incposspd | paramrd | paramwrRam
      | paramwrRom =>
    exact (fillsTxbuf_of_encodeWire rfl).keepsRound

/-- RUN is refused, or starts a run (R251). -/
theorem exec_run_cases (s : State) :
    (∃ r, exec .run s = .next (s.answer (.refused r))) ∨
      s.busy = false ∧ s.configured = true ∧
        exec .run s = .next ({ s with cancel := false, ticks := 0, phase := .startup, seqAxis := 0, seqStep := .enable }.answer
          (.ok .unit)) := by
  cases hb : s.busy with
  | true => exact .inl ⟨_, exec_run_busy hb⟩
  | false =>
    cases hc : s.configured with
    | false => exact .inl ⟨_, exec_run_unconfigured hb hc⟩
    | true => exact .inr ⟨rfl, rfl, exec_run_starts hb hc⟩

theorem exec_exists_next (i : Instr) (s : State) : ∃ t, exec i s = .next t := by
  by_cases hrun : i = .run
  · subst hrun
    obtain ⟨r, h⟩ | ⟨-, -, h⟩ := exec_run_cases s
    · exact ⟨_, h⟩
    · exact ⟨_, h⟩
  · by_cases hcancel : i = .cancel
    · subst hcancel
      exact ⟨_, rfl⟩
    · obtain ⟨t, ht, -⟩ := exec_keepsRound s hrun hcancel
      exact ⟨t, ht⟩

/-! ### No agent's move faults in a well-kept state -/

/-- Exchanges are of a run. -/
theorem Makes.busy {x : Exchange} (h : Makes s e x) : s.busy = true := by
  cases h with
  | angle k hk hp | status k hk hp | torque k iq hk hp | startup k hp | disable k hp => simp [State.busy, hp]

/-- A well-kept state of a run has what RUN has checked. -/
theorem Inv.regsSet (hi : Inv s) (hb : s.busy = true) : RegsSet s := hi.control.regsSet hb

theorem Inv.legal_axisId (hi : Inv s) (hb : s.busy = true) (hk : s.active k = true) :
    ∃ a, (s.axis k).axisId = some a ∧ 1 ≤ a.toNat ∧ a.toNat ≤ 32 := by
  obtain ⟨a, ha⟩ := Option.isSome_iff_exists.1 ((hi.axis k).idSet hb hk)
  exact ⟨a, ha, (hi.axis k).axisId a ha⟩

theorem Inv.tRead_eq_some (hi : Inv s) (hb : s.busy = true) : ∃ T, s.tRead = some T := by
  obtain ⟨-, -, -, -, -, hT, -⟩ := hi.regsSet hb
  exact Option.isSome_iff_exists.1 hT

theorem Inv.period_eq_some (hi : Inv s) (hb : s.busy = true) : ∃ p, s.period = some p := by
  obtain ⟨-, -, -, -, hp, -⟩ := hi.regsSet hb
  exact Option.isSome_iff_exists.1 hp

theorem Inv.nax_eq_some (hi : Inv s) (hb : s.busy = true) : ∃ n, s.nax = some n := by
  obtain ⟨hn, -⟩ := hi.regsSet hb
  exact Option.isSome_iff_exists.1 hn

theorem Inv.exchange_next {x : Exchange} (hi : Inv s) (hx : Makes s e x) : ∃ t, x.move s = .next t := by
  obtain ⟨a, ha, h1, h32⟩ := hi.legal_axisId hx.busy hx.active
  obtain ⟨T, hT⟩ := hi.tRead_eq_some hx.busy
  have hfree := agentTransact_not_refused (c := x.cmd) (n := x.replyLen) ha h1 h32 hx.payload_length (by simp [hT])
  exact Exchange.exists_next hfree hx.done_total

theorem workerMove_next_of_inv (hi : Inv s) (k : AxisIx) : ∃ t, workerMove s k = .next t := by
  obtain hwaits | ⟨x, hx⟩ | hpending | ⟨hp, hm, hs, hq, -⟩ := workerMove_kinds s k
  · exact ⟨s, hwaits⟩
  · obtain ⟨t, ht⟩ := hi.exchange_next hx
    exact ⟨t, hx.move.trans ht⟩
  · have hpending' := hpending
    obtain ⟨hk, hp, hm, hs⟩ := hpending
    have hb : s.busy = true := by simp [State.busy, hp]
    obtain ⟨a, ha, h1, h32⟩ := hi.legal_axisId hb hk
    obtain ⟨-, hkp, hkd, -⟩ := hi.regsSet hb
    obtain ⟨kp, hkp⟩ := Option.isSome_iff_exists.1 hkp
    obtain ⟨kd, hkd⟩ := Option.isSome_iff_exists.1 hkd
    obtain ⟨t, ht, -⟩ := dispatchImpMove_sends hkp hkd ha h1 h32
    exact ⟨t, (workerMove_dispatch_imp hpending').trans ht⟩
  · have htorque := (hi.axis k).torque hp hm hs
    simp [hq] at htorque

theorem computeMove_next_of_inv (hi : Inv s) (hb : s.busy = true) : ∃ t, computeMove s = .next t := by
  cases hm : s.mode with
  | imp => exact ⟨_, computeMove_imp hm⟩
  | pd =>
    obtain ⟨-, hkp, hkd, hlimit, -, -, hpair⟩ := hi.regsSet hb
    have hconf : PdConfigured s := ⟨hpair hm, hkp, hkd, hlimit⟩
    cases h0 : (s.axis 0).valid with
    | false => exact ⟨_, computeMove_invalid hm (hconf.pdOutcome_first_invalid h0)⟩
    | true =>
      cases h1 : (s.axis 1).valid with
      | false => exact ⟨_, computeMove_invalid hm (hconf.pdOutcome_second_invalid h0 h1)⟩
      | true =>
        obtain ⟨u₀, u₁, hlaw⟩ := hconf.pdOutcome_torques h0 h1
        exact ⟨_, computeMove_torques hm hlaw⟩

theorem sequencerMove_next_of_inv (hi : Inv s) : ∃ t, sequencerMove s = .next t := by
  cases hp : s.phase
  case idle | halted => exact ⟨s, by simp [sequencerMove, hp]⟩
  case startup =>
    obtain ⟨n, hn⟩ := hi.nax_eq_some (by simp [State.busy, hp])
    cases hc : s.currentAxis with
    | none => exact ⟨_, (sequencerMove_startup hp).trans (startupMove_past hn hc)⟩
    | some k =>
      have hx := Makes.startup k hp hc
      obtain ⟨t, ht⟩ := hi.exchange_next hx
      exact ⟨t, hx.move.trans ht⟩
  case shutdown =>
    obtain ⟨n, hn⟩ := hi.nax_eq_some (by simp [State.busy, hp])
    cases hc : s.currentAxis with
    | none => exact ⟨_, (sequencerMove_shutdown hp).trans (shutdownMove_past hn hc)⟩
    | some k =>
      have hx := Makes.disable k hp hc
      obtain ⟨t, ht⟩ := hi.exchange_next hx
      exact ⟨t, hx.move.trans ht⟩
  case tickStart => exact ⟨_, sequencerMove_tickStart hp⟩
  case refresh => exact ⟨_, sequencerMove_refresh hp⟩
  case dispatch => exact ⟨_, sequencerMove_dispatch hp⟩
  case check => exact ⟨_, sequencerMove_check hp⟩
  case between => exact ⟨_, sequencerMove_between hp⟩
  case compute =>
    obtain ⟨t, ht⟩ := computeMove_next_of_inv hi (by simp [State.busy, hp])
    exact ⟨t, (sequencerMove_compute hp).trans ht⟩
  case timing =>
    obtain ⟨p, hper⟩ := hi.period_eq_some (by simp [State.busy, hp])
    exact ⟨_, (sequencerMove_timing hp).trans (timingMove_eq hper)⟩
  case sleep =>
    obtain ⟨p, hper⟩ := hi.period_eq_some (by simp [State.busy, hp])
    exact ⟨_, (sequencerMove_sleep hp).trans (sleepMove_eq hper)⟩

theorem agentMove_next_of_inv (hi : Inv s) (e : Event) : ∃ t, agentMove e s = .next t := by
  cases e with
  | worker k => exact workerMove_next_of_inv hi k
  | sequencer => exact sequencerMove_next_of_inv hi
  | request | write | read | device | time | sample => exact ⟨_, rfl⟩

theorem step_next_of_inv (hi : Inv s) : ∃ t, step s = .next t := by
  cases hstart : s.port.start with
  | true =>
    cases hdec : decode s.placed with
    | error e => exact ⟨_, step_of_decode_error hstart hdec⟩
    | ok i =>
      obtain ⟨t, ht⟩ := exec_exists_next i s.taken
      exact ⟨t, (step_of_decode_ok hstart hdec).trans ht⟩
  | false =>
    obtain ⟨t, ht⟩ := agentMove_next_of_inv (hi.inside (inside_drawEvent s)) s.drawEvent.1
    exact ⟨t, (step_of_idle_port hstart).trans ht⟩

end Sys2Proof.Machine

namespace Sys2Proof.Proofs

open Sys2Proof Sys2Proof.Machine

/-- Settles O59: no instruction faults, and in a well-kept state no move of an agent. -/
theorem nothingStopsTheMachine : Obligations.NothingStopsTheMachine :=
  ⟨exec_exists_next, fun _ hi => step_next_of_inv hi⟩

end Sys2Proof.Proofs
end

section
/-! PROOF. The phases (`47_sequencer.md` R250): an instruction but RUN and a move of any agent but the sequencer leave the phase,
and the moves of the sequencer that change it are the rows of the table. -/

namespace Sys2Proof.Machine

variable {s t u : State} {k : AxisIx} {e : Event} {i : Instr}

/-- The registers that hold how far a run has come and the round of turns, which the sequencer alone moves on. -/
def State.course (s : State) : Phase × Bool × Nat × StartStep × Nat × Fin 34 × Nat :=
  (s.phase, s.cancel, s.seqAxis, s.seqStep, s.tStart, s.turn, s.slack)

theorem phase_of_course (h : t.course = s.course) : t.phase = s.phase := congrArg Prod.fst h

theorem OneAxis.course (h : OneAxis k s t) : t.course = s.course := (congrArg State.course h.eq :)

theorem configWrite_course (legal : Bool) {w : State} (hw : w.course = s.course) :
    (configWrite s legal w).course = s.course := by
  obtain ⟨r, h⟩ | ⟨-, -, h⟩ := configWrite_cases s legal w
  all_goals rw [h]
  · rfl
  · exact hw

theorem hostWrite_course (w : RegWrite) (s : State) : (hostWrite w s).course = s.course := by
  cases w with
  | nax | axisId | chAddr | baud | kp | kd | limit | period | tRead | mode | required => exact configWrite_course _ rfl
  | pDes | vDes | tFf => rfl
  | rxbuf bytes =>
    simp only [hostWrite]
    split <;> rfl

theorem sampleMove_course (s : State) (k : AxisIx) (r : Setpoint) : (sampleMove s k r).course = s.course := by
  unfold sampleMove
  split <;> rfl

theorem agentMove_course (h : agentMove e s = .next t) (he : e ≠ .sequencer) : t.course = s.course := by
  cases e with
  | worker k => exact (workerMove_ends h).oneAxis.course
  | sequencer => exact absurd rfl he
  | request | read | device | time =>
    cases h
    rfl
  | write w =>
    cases h
    exact hostWrite_course w s
  | sample k r =>
    cases h
    exact sampleMove_course s k r

/-- An instruction that changes the phase is a RUN that starts a run (R250, R251). -/
theorem run_of_exec_changes (h : exec i s = .next t) (hne : t.phase ≠ s.phase) :
    i = .run ∧ s.busy = false ∧ s.configured = true ∧ t.phase = .startup := by
  by_cases hrun : i = .run
  · subst hrun
    obtain ⟨r, hrefused⟩ | ⟨hb, hc, hstarts⟩ := exec_run_cases s
    · obtain rfl := Host.Outcome.next.inj (hrefused.symm.trans h)
      exact absurd rfl hne
    · obtain rfl := Host.Outcome.next.inj (hstarts.symm.trans h)
      exact ⟨rfl, hb, hc, rfl⟩
  · by_cases hcancel : i = .cancel
    · subst hcancel
      cases h
      exact absurd rfl hne
    · obtain ⟨u, hu, hround⟩ := exec_keepsRound s hrun hcancel
      obtain rfl := Host.Outcome.next.inj (hu.symm.trans h)
      exact absurd (congrArg (fun r => r.2.2.2.1) hround) hne

theorem StartStep.advance_phase (st : StartStep) (k : AxisIx) (u : State) : (st.advance k u).phase = u.phase := by
  cases st <;> rfl

/-- Past the last axis every axis lies before the place of the sequencer (R255, R278). -/
theorem lt_seqAxis_of_currentAxis_none (hc : s.currentAxis = none) (hk : s.active k = true) : k.val < s.seqAxis := by
  by_contra hle
  obtain ⟨n, hn, hkn⟩ := State.active_iff.1 hk
  have h32 : s.seqAxis < 32 := by omega
  have hactive : s.active ⟨s.seqAxis, h32⟩ = true := State.active_iff.2 ⟨n, hn, by dsimp only; omega⟩
  simp [State.currentAxis, h32, hactive] at hc

/-- COMPUTE.PD names an axis that is invalid (R262). -/
theorem invalid_of_pdOutcome (h : pdOutcome s = .invalid k) : (s.axis 0).valid = false ∨ (s.axis 1).valid = false := by
  cases h0 : (s.axis 0).data with
  | none => exact .inl (by simp [Axis.valid, h0])
  | some d =>
    cases h1 : (s.axis 1).data with
    | none => exact .inr (by simp [Axis.valid, h1])
    | some d' =>
      simp only [pdOutcome, h0, h1] at h
      split at h
      next => split at h <;> cases h
      next => cases h

/-- `s` with a move drawn. -/
def State.withDrawn (s : State) (events : List Event) (turn : Fin 34) (slack drawn : Nat) : State :=
  { s with events := events, turn := turn, slack := slack, drawn := drawn }

theorem step_eq_agentMove (hstart : s.port.start = false) :
    ∃ events turn slack drawn, step s = agentMove s.drawEvent.1 (s.withDrawn events turn slack drawn) :=
  ⟨_, _, _, _, (step_of_idle_port hstart).trans (congrArg _ s.drawEvent_frame)⟩

end Sys2Proof.Machine

namespace Sys2Proof.Proofs

open Sys2Proof Sys2Proof.Machine

/-- Settles O40: RUN apart, the sequencer alone changes the phase, and each way its move can end is a row. -/
theorem phaseTransitionsAreComplete : Obligations.PhaseTransitionsAreComplete := by
  unfold Obligations.PhaseTransitionsAreComplete
  intro s t hstep hne
  cases hstart : s.port.start with
  | true =>
    cases hdec : decode s.placed with
    | error e =>
      obtain rfl := Host.Outcome.next.inj ((step_of_decode_error hstart hdec).symm.trans hstep)
      exact absurd rfl hne
    | ok i =>
      rw [step_of_decode_ok hstart hdec] at hstep
      obtain ⟨rfl, hb, hc, ht⟩ := run_of_exec_changes hstep hne
      exact .inl ⟨not_busy_iff.1 hb, ht, rfl, rfl, hc⟩
  | false =>
    obtain ⟨events, turn, slack, drawn, hdraw⟩ := step_eq_agentMove hstart
    rw [hdraw] at hstep
    have hsequencer : s.drawEvent.1 = .sequencer := by
      by_contra he
      have hphase := phase_of_course (agentMove_course hstep he)
      exact hne hphase
    rw [hsequencer] at hstep
    refine .inr ⟨rfl, hsequencer, ?_⟩
    cases sequencerMove_ends hstep with
    | rests | waits | sleeps => exact absurd rfl hne
    | stage x _ hx hend =>
      cases hx with
      | startup k hp hc =>
        cases hend with
        | pending _ h => exact absurd (Exchange.inProgress h).frame.channels.phase hne
        | failed err u h =>
          refine .inr (.inl ⟨hp, rfl, k, s.seqStep.site, err, hc, ?_⟩)
          exact congrArg (· ++ _) (Exchange.ended_of_err h).frame.channels.rlog
        | done q u _ h hd =>
          cases hd
          exact absurd ((StartStep.advance_phase _ k u).trans (Exchange.ended_of_ok h).frame.channels.phase) hne
      | disable k hp hc =>
        cases hend with
        | pending _ h => exact absurd (Exchange.inProgress h).frame.channels.phase hne
        | failed err u h => exact absurd (Exchange.ended_of_err h).frame.channels.phase hne
        | done q u _ h hd =>
          cases hd
          exact absurd (Exchange.ended_of_ok h).frame.channels.phase hne
    | started hp hc =>
      have hpast {k : AxisIx} (hk : s.active k = true) : k.val < s.seqAxis := lt_seqAxis_of_currentAxis_none hc hk
      refine .inl ⟨hp, rfl, hc, fun k => hpast, fun hi k hk => ?_⟩
      obtain ⟨hzeroed, -⟩ := hi.startupPlace hp
      exact hzeroed k hk (hpast hk)
    | cancelled hp hc =>
      iterate 2 right
      exact .inl ⟨hp, rfl, hc⟩
    | goesOn hp hc =>
      iterate 3 right
      exact .inl ⟨hp, rfl, hc⟩
    | ticks hp =>
      iterate 4 right
      exact .inl ⟨hp, rfl⟩
    | refreshed hp hb =>
      iterate 5 right
      exact .inl ⟨hp, rfl, (State.barrierPassed_iff _).1 hb⟩
    | skips hp hn =>
      iterate 6 right
      exact .inl ⟨hp, rfl, hn⟩
    | checks hp hn =>
      iterate 7 right
      exact .inl ⟨hp, rfl, hn⟩
    | commands hp =>
      iterate 8 right
      exact .inl ⟨hp, rfl⟩
    | computes _ _ hp =>
      iterate 8 right
      exact .inl ⟨hp, rfl⟩
    | invalid k hp hm hlaw =>
      iterate 9 right
      exact .inl ⟨hp, rfl, hm, invalid_of_pdOutcome hlaw⟩
    | dispatched hp hb =>
      iterate 10 right
      exact .inl ⟨hp, rfl, (State.barrierPassed_iff _).1 hb⟩
    | inTime p hp hper h =>
      iterate 11 right
      exact .inl ⟨hp, rfl, p, hper, h⟩
    | overruns p hp hper h =>
      iterate 12 right
      exact .inl ⟨hp, rfl, p, hper, h⟩
    | wakes p hp hper h =>
      iterate 13 right
      exact .inl ⟨hp, rfl, p, hper, h⟩
    | halts hp hc =>
      iterate 14 right
      exact ⟨hp, rfl, hc, fun k => lt_seqAxis_of_currentAxis_none hc⟩

end Sys2Proof.Proofs
end

section
/-! PROOF. `CANCEL` (`47_sequencer.md` R274; `60_exceptions.md` R301): every part of a move but `betweenMove` commutes with a
write of the flag, so no other move depends on it or changes it. -/

namespace Sys2Proof.Machine

variable {s t u : State} {k : AxisIx} {b : Bool} {c : Byte} {p : List Byte} {n : Nat}

/-- `s` with `CANCEL` set to `b`. -/
def State.withCancel (s : State) (b : Bool) : State := { s with cancel := b }

/-- The outcome of a move, with `CANCEL` set to `b` in its next state. -/
def Step.withCancel (o : Step) (b : Bool) : Step :=
  match o with
  | .next t => .next (t.withCancel b)
  | .fault f => .fault f
  | .refused r => .refused r

/-- A move that neither depends on `CANCEL` nor changes it. -/
def CancelFree (m : State → Step) (s : State) : Prop := ∀ b, m (s.withCancel b) = Step.withCancel (m s) b

theorem cancelFree_iff (m : State → Step) (s : State) :
    CancelFree m s ↔
      ∀ b, match m s with
        | .next t => t.cancel = s.cancel ∧ m { s with cancel := b } = .next { t with cancel := b }
        | .fault f => m { s with cancel := b } = .fault f
        | .refused r => m { s with cancel := b } = .refused r := by
  constructor
  · intro h b
    have hb : m { s with cancel := b } = Step.withCancel (m s) b := h b
    have hself : m s = Step.withCancel (m s) s.cancel := h s.cancel
    cases hm : m s with
    | next t =>
      rw [hm] at hb hself
      have ht : t = t.withCancel s.cancel := Host.Outcome.next.inj hself
      exact ⟨(congrArg State.cancel ht :), hb⟩
    | fault f =>
      rw [hm] at hb
      exact hb
    | refused r =>
      rw [hm] at hb
      exact hb
  · intro h b
    have hb := h b
    change m { s with cancel := b } = _
    cases hm : m s with
    | next t =>
      rw [hm] at hb
      exact hb.2
    | fault f =>
      rw [hm] at hb
      exact hb
    | refused r =>
      rw [hm] at hb
      exact hb

/-! ### Channels -/

theorem axis_withCancel (s : State) (b : Bool) (k : AxisIx) : (s.withCancel b).axis k = s.axis k := rfl

theorem modAxis_withCancel (s : State) (b : Bool) (k : AxisIx) (f : Axis → Axis) :
    (s.withCancel b).modAxis k f = (s.modAxis k f).withCancel b := rfl

theorem drawLink_withCancel (s : State) (b : Bool) : (s.withCancel b).drawLink = (s.drawLink.1, s.drawLink.2.withCancel b) := by
  simp only [State.drawLink, State.withCancel]
  cases s.links <;> rfl

theorem chWrite_withCancel (s : State) (b : Bool) (f : List Byte) :
    chWrite (s.withCancel b) k f = ((chWrite s k f).1, (chWrite s k f).2.withCancel b) := by
  simp only [chWrite, drawLink_withCancel, chArrive, modAxis_withCancel]

/-- How a request ends whose write was tried under the draw `d` (R231). -/
def writeEnd (d : LinkDraw) : Sent := if d.sent.isNone then .sent d else .failed d

theorem request_of_build {a : Byte} {cd : Codec} (ha : (s.axis k).axisId = some a)
    (hb : ((chDiscard s k).axis k).codec.build c a p = .ok cd) :
    request s k c p =
      (writeEnd (chWrite ((chDiscard s k).modAxis k fun ax => { ax with codec := cd }) k cd.txbuf).1,
        (chWrite ((chDiscard s k).modAxis k fun ax => { ax with codec := cd }) k cd.txbuf).2) := by
  simp only [request, ha, hb, writeEnd]
  split <;> rfl

theorem request_withCancel (s : State) (b : Bool) :
    request (s.withCancel b) k c p = ((request s k c p).1, (request s k c p).2.withCancel b) := by
  cases ha : (s.axis k).axisId with
  | none => simp only [request, axis_withCancel, ha]
  | some a =>
    have ha' : ((s.withCancel b).axis k).axisId = some a := ha
    cases hb : ((chDiscard s k).axis k).codec.build c a p with
    | error r =>
      have hb' : ((chDiscard (s.withCancel b) k).axis k).codec.build c a p = .error r := hb
      simp only [request, ha, ha', hb, hb']
      rfl
    | ok cd =>
      have hb' : ((chDiscard (s.withCancel b) k).axis k).codec.build c a p = .ok cd := hb
      rw [request_of_build ha hb, request_of_build ha' hb', chDiscard, modAxis_withCancel, modAxis_withCancel,
        chWrite_withCancel, chDiscard]

theorem collect_withCancel (s : State) (b : Bool) :
    collect (s.withCancel b) k n = ((collect s k n).1, (collect s k n).2.withCancel b) := by
  simp only [collect, axis_withCancel, modAxis_withCancel]
  split <;> rfl

theorem agentRead_withCancel (s : State) (b : Bool) (since : Nat) :
    agentRead (s.withCancel b) k n since = ((agentRead s k n since).1, (agentRead s k n since).2.withCancel b) := by
  simp only [agentRead, drawLink_withCancel, axis_withCancel, modAxis_withCancel, collect_withCancel]
  have hT : (s.drawLink.2.withCancel b).tRead = s.drawLink.2.tRead := rfl
  have hnow : (s.drawLink.2.withCancel b).now = s.drawLink.2.now := rfl
  rw [hT, hnow]
  cases s.drawLink.2.tRead
  all_goals
    dsimp only
    split_ifs <;> rfl

theorem agentTransact_withCancel (s : State) (b : Bool) :
    agentTransact (s.withCancel b) k c p n = ((agentTransact s k c p n).1, (agentTransact s k c p n).2.withCancel b) := by
  cases hw : (s.axis k).wait with
  | some since => simp only [agentTransact, axis_withCancel, hw, agentRead_withCancel]
  | none =>
    simp only [agentTransact, axis_withCancel, hw, request_withCancel]
    rcases request s k c p with ⟨r | d | d, u⟩
    · rfl
    · rfl
    · dsimp only
      split <;> rfl

theorem fireForget_withCancel (s : State) (b : Bool) :
    fireForget (s.withCancel b) k c p = ((fireForget s k c p).1, (fireForget s k c p).2.withCancel b) := by
  simp only [fireForget, request_withCancel]
  rcases request s k c p with ⟨r | d | d, u⟩ <;> rfl

/-! ### Workers -/

/-- Neither what follows from a failure nor what follows from a reply depends on `CANCEL` or changes it. -/
structure Exchange.IgnoresCancel (x : Exchange) : Prop where
  fail : ∀ e u b, x.fail e (u.withCancel b) = (x.fail e u).withCancel b
  done : ∀ q u b, x.done q (u.withCancel b) = (x.done q u).map (·.withCancel b)

theorem Exchange.IgnoresCancel.move {x : Exchange} (hx : x.IgnoresCancel) (s : State) : CancelFree x.move s := by
  intro b
  have htransact : x.transact (s.withCancel b) = ((x.transact s).1, (x.transact s).2.withCancel b) :=
    agentTransact_withCancel s b
  unfold Exchange.move
  rw [htransact]
  rcases x.transact s with ⟨_ | r | e | q, u⟩
  · rfl
  · rfl
  · exact congrArg Host.Outcome.next (hx.fail e u b)
  · simp only [hx.done q u b]
    cases x.done q u <;> rfl

theorem angleExchange_ignoresCancel (k : AxisIx) : (angleExchange k).IgnoresCancel where
  fail _ _ _ := rfl
  done q _ _ := by cases hq : decMtang q <;> simp only [angleExchange, hq] <;> rfl

theorem statusExchange_ignoresCancel (k : AxisIx) : (statusExchange k).IgnoresCancel where
  fail _ _ _ := rfl
  done q _ _ := by cases hq : decStat2 q <;> simp only [statusExchange, hq] <;> rfl

theorem torqueExchange_ignoresCancel (k : AxisIx) (iq : Rat) : (torqueExchange k iq).IgnoresCancel :=
  ⟨fun _ _ _ => rfl, fun _ _ _ => rfl⟩

theorem startupExchange_ignoresCancel (st : StartStep) (k : AxisIx) : (startupExchange st k).IgnoresCancel where
  fail _ _ _ := rfl
  done _ _ _ := by cases st <;> rfl

theorem disableExchange_ignoresCancel (k : AxisIx) : (disableExchange k).IgnoresCancel :=
  ⟨fun _ _ _ => rfl, fun _ _ _ => rfl⟩

theorem refreshMove_ignoresCancel (s : State) (k : AxisIx) : CancelFree (refreshMove · k) s := by
  intro b
  dsimp only
  cases hs : (s.axis k).wstep with
  | t1 =>
    rw [refreshMove_angle hs, refreshMove_angle (s := s.withCancel b) hs]
    exact (angleExchange_ignoresCancel k).move s b
  | t2 =>
    rw [refreshMove_status hs, refreshMove_status (s := s.withCancel b) hs]
    exact (statusExchange_ignoresCancel k).move s b
  | cmd | done =>
    simp only [refreshMove, axis_withCancel, hs]
    rfl

theorem dispatchPdMove_ignoresCancel (s : State) (k : AxisIx) : CancelFree (dispatchPdMove · k) s := by
  intro b
  dsimp only
  cases hq : (s.axis k).tq with
  | none =>
    simp only [dispatchPdMove, axis_withCancel, hq]
    rfl
  | some iq =>
    rw [dispatchPdMove_torque hq, dispatchPdMove_torque (s := s.withCancel b) hq]
    exact (torqueExchange_ignoresCancel k iq).move s b

theorem dispatchImpMove_ignoresCancel (s : State) (k : AxisIx) : CancelFree (dispatchImpMove · k) s := by
  intro b
  have hkp : (s.withCancel b).kp = s.kp := rfl
  have hkd : (s.withCancel b).kd = s.kd := rfl
  simp only [dispatchImpMove, hkp, hkd, axis_withCancel, fireForget_withCancel]
  cases s.kp with
  | none => rfl
  | some kp =>
    cases s.kd with
    | none => rfl
    | some kd =>
      dsimp only
      rcases fireForget s k _ _ with ⟨_ | r, u⟩ <;> rfl

theorem workerMove_ignoresCancel (s : State) (k : AxisIx) : CancelFree (workerMove · k) s := by
  intro b
  have hactive : (s.withCancel b).active k = s.active k := rfl
  have hphase : (s.withCancel b).phase = s.phase := rfl
  have hmode : (s.withCancel b).mode = s.mode := rfl
  simp only [workerMove, hactive, hphase, hmode, axis_withCancel]
  split
  next =>
    cases s.phase
    case refresh => exact refreshMove_ignoresCancel s k b
    case dispatch =>
      dsimp only
      split
      next =>
        cases s.mode with
        | pd => exact dispatchPdMove_ignoresCancel s k b
        | imp => exact dispatchImpMove_ignoresCancel s k b
      next => rfl
    all_goals rfl
  next => rfl

/-! ### The sequencer -/

theorem startupMove_ignoresCancel (s : State) : CancelFree startupMove s := by
  intro b
  cases hc : s.currentAxis with
  | none =>
    have hc' : (s.withCancel b).currentAxis = none := hc
    have hnax : (s.withCancel b).nax = s.nax := rfl
    simp only [startupMove, hc, hc', hnax]
    cases s.nax <;> rfl
  | some k =>
    rw [startupMove_exchange hc, startupMove_exchange (s := s.withCancel b) hc]
    exact (startupExchange_ignoresCancel s.seqStep k).move s b

theorem shutdownMove_ignoresCancel (s : State) : CancelFree shutdownMove s := by
  intro b
  cases hc : s.currentAxis with
  | none =>
    have hc' : (s.withCancel b).currentAxis = none := hc
    have hnax : (s.withCancel b).nax = s.nax := rfl
    simp only [shutdownMove, hc, hc', hnax]
    cases s.nax <;> rfl
  | some k =>
    rw [shutdownMove_exchange hc, shutdownMove_exchange (s := s.withCancel b) hc]
    exact (disableExchange_ignoresCancel k).move s b

theorem computeMove_ignoresCancel (s : State) : CancelFree computeMove s := by
  intro b
  have hmode : (s.withCancel b).mode = s.mode := rfl
  have hlaw : pdOutcome (s.withCancel b) = pdOutcome s := rfl
  simp only [computeMove, hmode, hlaw]
  cases s.mode with
  | imp => rfl
  | pd => cases pdOutcome s <;> rfl

theorem timingMove_ignoresCancel (s : State) : CancelFree timingMove s := by
  intro b
  cases hper : s.period with
  | none =>
    have hper' : (s.withCancel b).period = none := hper
    simp only [timingMove, hper, hper']
    rfl
  | some p =>
    rw [timingMove_eq hper, timingMove_eq (s := s.withCancel b) hper]
    by_cases hlate : p ≤ s.now - s.tStart
    · have hlate' : p ≤ (s.withCancel b).now - (s.withCancel b).tStart := hlate
      rw [if_pos hlate, if_pos hlate']
      rfl
    · have hlate' : ¬ p ≤ (s.withCancel b).now - (s.withCancel b).tStart := hlate
      rw [if_neg hlate, if_neg hlate']
      rfl

theorem sleepMove_ignoresCancel (s : State) : CancelFree sleepMove s := by
  intro b
  cases hper : s.period with
  | none =>
    have hper' : (s.withCancel b).period = none := hper
    simp only [sleepMove, hper, hper']
    rfl
  | some p =>
    rw [sleepMove_eq hper, sleepMove_eq (s := s.withCancel b) hper]
    by_cases hlate : s.tStart + p ≤ s.now
    · have hlate' : (s.withCancel b).tStart + p ≤ (s.withCancel b).now := hlate
      rw [if_pos hlate, if_pos hlate']
      rfl
    · have hlate' : ¬ (s.withCancel b).tStart + p ≤ (s.withCancel b).now := hlate
      rw [if_neg hlate, if_neg hlate']
      rfl

theorem checkMove_withCancel (s : State) (b : Bool) : checkMove (s.withCancel b) = (checkMove s).withCancel b := by
  have hskip : (s.withCancel b).skipNeeded = s.skipNeeded := rfl
  simp only [checkMove, hskip]
  cases s.skipNeeded <;> rfl

theorem sequencerMove_ignoresCancel (hp : s.phase ≠ .between) : CancelFree sequencerMove s := by
  intro b
  have hphase : (s.withCancel b).phase = s.phase := rfl
  have hbarrier : (s.withCancel b).barrierPassed = s.barrierPassed := rfl
  simp only [sequencerMove, hphase, hbarrier]
  cases hs : s.phase
  case idle | halted | tickStart => rfl
  case startup => exact startupMove_ignoresCancel s b
  case shutdown => exact shutdownMove_ignoresCancel s b
  case compute => exact computeMove_ignoresCancel s b
  case timing => exact timingMove_ignoresCancel s b
  case sleep => exact sleepMove_ignoresCancel s b
  case between => exact absurd hs hp
  case refresh | dispatch => cases s.barrierPassed <;> rfl
  case check => exact congrArg Host.Outcome.next (checkMove_withCancel s b)

theorem sampleMove_withCancel (s : State) (k : AxisIx) (r : Setpoint) (b : Bool) :
    sampleMove (s.withCancel b) k r = (sampleMove s k r).withCancel b := by
  by_cases h : CommandPending s k
  · rw [sampleMove_of_pending h, sampleMove_of_pending (s := s.withCancel b) h]
    rfl
  · rw [sampleMove_of_not_pending h, sampleMove_of_not_pending (s := s.withCancel b) h]

end Sys2Proof.Machine

namespace Sys2Proof.Proofs

open Sys2Proof Sys2Proof.Machine

/-- Settles O36: `betweenMove` looks at the flag, and every other move commutes with a write of it. -/
theorem cancelIsLatchedUntilBetween : Obligations.CancelIsLatchedUntilBetween := by
  unfold Obligations.CancelIsLatchedUntilBetween
  refine ⟨fun _ => rfl, fun _ => rfl, fun s hp => ?between, fun s b k r =>
    ⟨?kept, sampleMove_withCancel s k r b, fun hp => ?_, ?_⟩⟩
  case between =>
    rw [sequencerMove_between hp, betweenMove]
  case kept => exact (congrArg State.cancel (sampleMove_withCancel s k r s.cancel) :)
  · exact (cancelFree_iff sequencerMove s).1 (sequencerMove_ignoresCancel hp) b
  · exact (cancelFree_iff (workerMove · k) s).1 (workerMove_ignoresCancel s k) b

end Sys2Proof.Proofs
end

section
/-! PROOF. What is written to a channel (`47_sequencer.md` R280; `20_memory.md` R67): by an exchange a leading part of its frame,
by the impedance command a leading part of its frame, by every other move nothing. -/

namespace Sys2Proof.Machine

variable {s t u : State} {k : AxisIx} {e : Event} {c : Byte} {p : List Byte}

/-! ### Instructions -/

/-- In a run an instruction writes registers behind the host port alone (R300; `70_reset_and_hazards.md` R332). -/
theorem HostUpdates.inside (hb : s.busy = true) (h : HostUpdates s t) : Inside s t := by
  induction h with
  | refl => exact inside_refl s
  | tail _ hu ih =>
    have hb' := ih.busy.trans hb
    cases hu with
    | inside h => exact ih.trans h
    | channel _ hfree | group _ _ hfree | torques _ _ hfree | run hfree => simp [hb'] at hfree

/-! ### What a move on a channel writes to it -/

/-- Nothing, or a leading part of the frame of command `c` with payload `p`. -/
def SendsPart (k : AxisIx) (c : Byte) (p : List Byte) (s t : State) : Prop :=
  (t.axis k).txh = (s.axis k).txh ∨
    ∃ a f pre, (s.axis k).axisId = some a ∧ buildFrame c a p = .ok f ∧ pre <+: f ∧ (t.axis k).txh = (s.axis k).txh ++ pre

theorem request_sendsPart (s : State) (k : AxisIx) (c : Byte) (p : List Byte) : SendsPart k c p s (request s k c p).2 := by
  have h := request_spec s k c p
  generalize (request s k c p).1 = r, (request s k c p).2 = t at h
  cases h with
  | noId => exact .inl rfl
  | noFrame =>
    refine .inl ?_
    rw [chDiscard, State.axis_modAxis_self]
  | failed a f j _ ha hf _ _ _ hk => exact .inr ⟨a, f, _, ha, hf, List.take_prefix j f, by rw [hk]⟩
  | sent a f _ ha hf _ _ _ hk => exact .inr ⟨a, f, f, ha, hf, List.prefix_rfl, by rw [hk]⟩

theorem SendsPart.of_txh_eq (h : SendsPart k c p s u) (ht : (t.axis k).txh = (u.axis k).txh) : SendsPart k c p s t := by
  unfold SendsPart
  rw [ht]
  exact h

theorem agentTransact_sendsPart (s : State) (k : AxisIx) (c : Byte) (p : List Byte) (n : Nat) :
    SendsPart k c p s (agentTransact s k c p n).2 := by
  cases hw : (s.axis k).wait with
  | some since =>
    obtain ⟨-, -, htxh, -⟩ := agentRead_spec s k n since
    simp only [agentTransact, hw]
    exact .inl htxh
  | none =>
    have h := request_sendsPart s k c p
    simp only [agentTransact, hw]
    rcases hr : request s k c p with ⟨r | d | d, u⟩
    all_goals rw [hr] at h
    · exact h
    · exact h
    · dsimp only
      split
      next => exact h
      next =>
        have hsame : SameOn Axis.txh u (u.modAxis k fun a => { a with wait := some u.now }) :=
          sameOn_modAxis u k fun _ => rfl
        exact h.of_txh_eq (hsame k)

theorem fireForget_sendsPart (s : State) (k : AxisIx) (c : Byte) (p : List Byte) :
    SendsPart k c p s (fireForget s k c p).2 := by
  have h := request_sendsPart s k c p
  unfold fireForget
  rcases hr : request s k c p with ⟨r | d | d, u⟩
  all_goals rw [hr] at h
  · exact h
  · exact h
  · exact h

/-- What follows from the end of an exchange writes no history. -/
theorem Makes.fail_txh {x : Exchange} (hx : Makes s e x) (err : ErrKind) (u : State) : SameOn Axis.txh u (x.fail err u) := by
  cases hx with
  | angle k | status k => exact (refreshFail_sameOn (fun _ => rfl) u k _ err).trans (finish_sameOn (fun _ => rfl) _ k)
  | torque k => exact SameOn.trans (fun _ => rfl) (finish_sameOn (fun _ => rfl) _ k)
  | startup k | disable k => exact fun _ => rfl

theorem Makes.done_txh {x : Exchange} {q : List Byte} (hx : Makes s e x) (h : x.done q u = some t) : SameOn Axis.txh u t := by
  cases hx with
  | angle k =>
    obtain ⟨raw, -, rfl⟩ := Option.map_eq_some_iff.1 h
    exact sameOn_modAxis u k fun _ => rfl
  | status k =>
    obtain ⟨st, -, rfl⟩ := Option.map_eq_some_iff.1 h
    rw [refreshDone_finish]
    exact sameOn_modAxis u k fun _ => rfl
  | torque k =>
    cases h
    exact finish_sameOn (fun _ => rfl) u k
  | startup k =>
    obtain rfl : s.seqStep.advance k u = t := Option.some.inj h
    exact advance_sameOn (fun _ _ => rfl) _ k u
  | disable k =>
    cases h
    exact (sameOn_modAxis u k (f := fun a => { a with life := .disabled }) fun _ => rfl).trans fun _ => rfl

theorem Makes.sendsPart {x : Exchange} (hx : Makes s e x) (h : ExchangeEnd x s t) : SendsPart x.axis x.cmd x.payload s t := by
  have hsent : SendsPart x.axis x.cmd x.payload s (x.transact s).2 := agentTransact_sendsPart s _ _ _ _
  cases h with
  | pending u h =>
    rw [h] at hsent
    exact hsent
  | failed err u h =>
    rw [h] at hsent
    exact hsent.of_txh_eq (hx.fail_txh err u _)
  | done q u t h hd =>
    rw [h] at hsent
    exact hsent.of_txh_eq (hx.done_txh hd _)

/-- A move that writes to channel `k` is an exchange on it, or sends the setpoints of axis `k`. -/
theorem exchange_of_txh_changes (h : agentMove e s = .next t) (hne : (t.axis k).txh ≠ (s.axis k).txh) :
    (∃ x, x.axis = k ∧ Makes s e x ∧ ExchangeEnd x s t) ∨ (CommandPending s k ∧ dispatchImpMove s k = .next t) := by
  by_cases hout : OutsideAgent e
  · exact absurd (agentMove_sameOn (g := Axis.txh) (fun _ _ hb => by rw [hb]) hout h k) hne
  · cases e with
    | worker j =>
      have hkj : k = j := by
        by_contra hkj
        exact hne (by rw [(workerMove_ends h).oneAxis.other k hkj])
      subst hkj
      obtain rfl | ⟨x, hx⟩ | himp := workerMove_cases h
      · exact absurd rfl hne
      · exact .inl ⟨x, hx.worker_axis, hx, Exchange.move_ends (hx.move.symm.trans h)⟩
      · exact .inr himp
    | sequencer =>
      obtain hsame | ⟨x, hx, hend⟩ := (sequencerMove_ends h).sameOn_or_stage (g := Axis.txh) fun _ _ hb => by rw [hb]
      · exact absurd (hsame k) hne
      · refine .inl ⟨x, ?_, hx, hend⟩
        by_contra hk
        exact hne (by rw [hx.sequencer_other hend (Ne.symm hk)])
    | request | write | read | device | time | sample => exact absurd ⟨nofun, nofun⟩ hout

theorem dispatchImpMove_sendsPart (h : dispatchImpMove s k = .next t) : ∃ p, SendsPart k 0xA8 p s t := by
  unfold dispatchImpMove at h
  split at h
  next kp kd _ _ =>
    have hsent := fireForget_sendsPart s k 0xA8
      (impPayload (s.axis k).setpoints.1 (s.axis k).setpoints.2.1 kp kd (s.axis k).setpoints.2.2)
    dsimp only at h
    split at h
    next => cases h
    next u hx =>
      cases h
      rw [hx] at hsent
      have hcleared : SameOn Axis.txh u (u.clearSamples k) := sameOn_modAxis u k fun _ => rfl
      exact ⟨_, hsent.of_txh_eq ((hcleared.trans (finish_sameOn (fun _ => rfl) _ k)) k)⟩
  next => cases h

end Sys2Proof.Machine

namespace Sys2Proof.Proofs

open Sys2Proof Sys2Proof.Machine

/-- Settles O53: in a run an instruction writes to no channel, and a move that does is an exchange or the impedance command. -/
theorem eachPhaseSendsItsOwnFrames : Obligations.EachPhaseSendsItsOwnFrames := by
  unfold Obligations.EachPhaseSendsItsOwnFrames
  intro s t k hstep hb hne
  cases hstart : s.port.start with
  | true =>
    have hinside : Inside s.taken t := by
      cases hdec : decode s.placed with
      | error e =>
        obtain rfl := Host.Outcome.next.inj ((step_of_decode_error hstart hdec).symm.trans hstep)
        exact inside_answer _ _
      | ok i =>
        rw [step_of_decode_ok hstart hdec] at hstep
        exact (exec_updates hstep).inside hb
    exact absurd (congrArg Axis.txh (hinside.axis k)) hne
  | false =>
    obtain ⟨events, turn, slack, drawn, hdraw⟩ := step_eq_agentMove hstart
    rw [hdraw] at hstep
    generalize s.drawEvent.1 = e at hstep
    obtain ⟨x, rfl, hx, hend⟩ | ⟨⟨hk, hp, hm, hs⟩, himp⟩ := exchange_of_txh_changes hstep hne
    · refine ⟨hx.active, ?_⟩
      obtain hsame | ⟨a, f, pre, ha, hf, hpre, htxh⟩ := hx.sendsPart hend
      · exact absurd hsame hne
      · refine ⟨x.cmd, a, x.payload, f, pre, ha, hf, hpre, htxh, ?_⟩
        cases hx with
        | angle k _ hp hs => exact .inl ⟨hp, hs, rfl, rfl⟩
        | status k _ hp hs => exact .inr (.inl ⟨hp, hs, rfl, rfl⟩)
        | torque k iq _ hp hm hs => exact .inr (.inr (.inl ⟨hp, hs, hm, rfl⟩))
        | startup k hp hc =>
          cases hs : s.seqStep with
          | enable =>
            iterate 4 right
            exact .inl ⟨hp, hc, rfl, congrArg StartStep.cmd hs, rfl⟩
          | zero =>
            iterate 5 right
            exact .inl ⟨hp, hc, rfl, congrArg StartStep.cmd hs, rfl⟩
        | disable k hp hc =>
          iterate 6 right
          exact ⟨hp, hc, rfl, rfl⟩
    · refine ⟨hk, ?_⟩
      obtain ⟨p, hsame | ⟨a, f, pre, ha, hf, hpre, htxh⟩⟩ := dispatchImpMove_sendsPart himp
      · exact absurd hsame hne
      · exact ⟨0xA8, a, p, f, pre, ha, hf, hpre, htxh, .inr (.inr (.inr (.inl ⟨hp, hs, hm, rfl⟩)))⟩

end Sys2Proof.Proofs
end

section
/-! PROOF. Every agent has its turn (`70_reset_and_hazards.md` R347; assumption 41): operations at the port keep the round of
turns, every other move brings the next turn nearer, and the round comes to every agent. -/

namespace Sys2Proof.Machine

variable {s t u : State} {k : AxisIx} {e : Event} {i : Instr} {m : Fin 34} {P Q : State → Prop}

/-- With no operation at the port and no slack left, turn `m` is next. -/
structure AtTurn (s : State) (m : Fin 34) : Prop where
  start : s.port.start = false
  slack : s.slack = 0
  turn : s.turn = m

/-! ### What steps leave of the round -/

theorem exec_start_turn_slack (h : exec i s = .next t) :
    t.port.start = s.port.start ∧ t.turn = s.turn ∧ t.slack = s.slack := by
  by_cases hrun : i = .run
  · subst hrun
    obtain ⟨r, hr⟩ | ⟨-, -, hr⟩ := exec_run_cases s
    all_goals
      obtain rfl := Host.Outcome.next.inj (hr.symm.trans h)
      exact ⟨rfl, rfl, rfl⟩
  · by_cases hcancel : i = .cancel
    · subst hcancel
      cases h
      exact ⟨rfl, rfl, rfl⟩
    · obtain ⟨u, hu, hround⟩ := exec_keepsRound s hrun hcancel
      obtain rfl := Host.Outcome.next.inj (hu.symm.trans h)
      simp only [State.round, Prod.mk.injEq] at hround
      exact ⟨hround.1, hround.2.1, hround.2.2.1⟩

/-- An operation at the port is taken, and the round stays where it is. -/
theorem step_takes_operation (hs : s.port.start = true) (h : step s = .next t) :
    t.port.start = false ∧ t.turn = s.turn ∧ t.slack = s.slack := by
  cases hdec : decode s.placed with
  | error e =>
    obtain rfl := Host.Outcome.next.inj ((step_of_decode_error hs hdec).symm.trans h)
    exact ⟨rfl, rfl, rfl⟩
  | ok i => exact exec_start_turn_slack ((step_of_decode_ok hs hdec).symm.trans h)

/-- The round of turns and `CANCEL`: what no move of an agent writes. -/
def State.roundAndCancel (s : State) : Fin 34 × Nat × Bool := (s.turn, s.slack, s.cancel)

theorem ChannelsOnly.roundAndCancel (h : ChannelsOnly s t) : t.roundAndCancel = s.roundAndCancel :=
  (congrArg State.roundAndCancel h.1 :)

theorem StartStep.advance_roundAndCancel (st : StartStep) (k : AxisIx) (u : State) :
    (st.advance k u).roundAndCancel = u.roundAndCancel := by
  cases st <;> rfl

theorem Makes.roundAndCancel {x : Exchange} (hx : Makes s .sequencer x) (h : ExchangeEnd x s t) :
    t.roundAndCancel = s.roundAndCancel := by
  cases h with
  | pending u h => exact (Exchange.inProgress h).frame.channels.roundAndCancel
  | failed err u h =>
    have hc := (Exchange.ended_of_err h).frame.channels.roundAndCancel
    cases hx with
    | startup | disable => exact hc
  | done q u t h hd =>
    have hc := (Exchange.ended_of_ok h).frame.channels.roundAndCancel
    cases hx with
    | startup k =>
      obtain rfl : s.seqStep.advance k u = t := Option.some.inj hd
      exact (StartStep.advance_roundAndCancel s.seqStep k u).trans hc
    | disable =>
      cases hd
      exact hc

theorem agentMove_roundAndCancel (h : agentMove e s = .next t) : t.roundAndCancel = s.roundAndCancel := by
  by_cases he : e = .sequencer
  · subst he
    cases sequencerMove_ends h with
    | stage x _ hx hend => exact hx.roundAndCancel hend
    | _ => rfl
  · have hcourse := agentMove_course h he
    simp only [State.course, Prod.mk.injEq] at hcourse
    obtain ⟨-, hcancel, -, -, -, hturn, hslack⟩ := hcourse
    simp only [State.roundAndCancel, hturn, hslack, hcancel]

theorem agentMove_turn_slack (h : agentMove e s = .next t) : t.turn = s.turn ∧ t.slack = s.slack :=
  ⟨congrArg (·.1) (agentMove_roundAndCancel h), congrArg (·.2.1) (agentMove_roundAndCancel h)⟩

/-- A move before the turn uses up slack. -/
theorem step_uses_slack {n : Nat} (hs : s.port.start = false) (hn : s.slack = n + 1) (h : step s = .next t) :
    t.turn = s.turn ∧ t.slack = n := by
  obtain ⟨hturn, hslack⟩ := agentMove_turn_slack ((step_of_idle_port hs).symm.trans h)
  obtain ⟨h0, -⟩ | ⟨hturn', hslack'⟩ := s.drawEvent_turn
  · omega
  · exact ⟨hturn.trans hturn', by omega⟩

/-- A turn is the move of its agent, and the next turn follows. -/
theorem AtTurn.step_eq (h : AtTurn s m) : step s = agentMove (turnMove m) s.drawEvent.2 := by
  rw [step_turn h.start h.slack, h.turn]

theorem AtTurn.drawEvent (h : AtTurn s m) : s.drawEvent.1 = turnMove m ∧ s.drawEvent.2.turn = m + 1 := by
  have hslack := h.slack
  obtain ⟨-, he, hturn⟩ | ⟨-, hslack'⟩ := s.drawEvent_turn
  · exact ⟨by rw [he, h.turn], by rw [hturn, h.turn]⟩
  · omega

theorem AtTurn.next_turn (h : AtTurn s m) (hstep : step s = .next t) : t.turn = m + 1 := by
  obtain ⟨hturn, -⟩ := agentMove_turn_slack (h.step_eq.symm.trans hstep)
  rw [hturn, h.drawEvent.2]

/-! ### The turn comes -/

/-- A step from a well-kept state with `P` leads to one with `P` or with `Q`. -/
def Stays (P Q : State → Prop) : Prop := ∀ s t, Inv s → P s → step s = .next t → P t ∨ Q t

theorem reaches_idle_port (hstay : Stays P Q) (hi : Inv s) (hP : P s) :
    Reaches s fun t => (Inv t ∧ P t ∧ t.port.start = false ∧ t.turn = s.turn ∧ t.slack = s.slack) ∨ Q t := by
  cases hs : s.port.start with
  | false => exact .here (.inl ⟨hi, hP, hs, rfl, rfl⟩)
  | true =>
    obtain ⟨t, ht⟩ := step_next_of_inv hi
    obtain ⟨hstart, hturn, hslack⟩ := step_takes_operation hs ht
    refine .step ht (.here ?_)
    exact (hstay s t hi hP ht).imp (fun h => ⟨hi.step ht, h, hstart, hturn, hslack⟩) id

theorem reaches_slack_zero (hstay : Stays P Q) {n : Nat} (hi : Inv s) (hP : P s) (hn : s.slack = n) :
    Reaches s fun t => (Inv t ∧ P t ∧ AtTurn t s.turn) ∨ Q t := by
  induction n generalizing s with
  | zero =>
    refine (reaches_idle_port hstay hi hP).mono fun t ht => ht.imp_left ?_
    rintro ⟨hit, hPt, hstart, hturn, hslack⟩
    exact ⟨hit, hPt, hstart, hslack.trans hn, hturn⟩
  | succ n ih =>
    refine (reaches_idle_port hstay hi hP).bind fun t ht => ?_
    obtain ⟨hit, hPt, hstart, hturn, hslack⟩ | hQ := ht
    · obtain ⟨u, hu⟩ := step_next_of_inv hit
      obtain ⟨hturn', hslack'⟩ := step_uses_slack hstart (hslack.trans hn) hu
      refine .step hu ?_
      obtain hPu | hQu := hstay t u hit hPt hu
      · rw [← hturn, ← hturn']
        exact ih (hit.step hu) hPu hslack'
      · exact .here (.inr hQu)
    · exact .here (.inr hQ)

/-- How many turns come before turn `m`. -/
def turnsBefore (m turn : Fin 34) : Nat := (m - turn).val

theorem turnsBefore_succ_lt : ∀ m turn : Fin 34, turn ≠ m → turnsBefore m (turn + 1) < turnsBefore m turn := by decide

/-- While `P` stays, any turn comes. -/
theorem reaches_turn (m : Fin 34) (hstay : Stays P Q) (hi : Inv s) (hP : P s) :
    Reaches s fun t => (Inv t ∧ P t ∧ AtTurn t m) ∨ Q t := by
  induction hd : turnsBefore m s.turn using Nat.strong_induction_on generalizing s with
  | _ d ih =>
    refine (reaches_slack_zero hstay hi hP rfl).bind fun t ht => ?_
    obtain ⟨hit, hPt, hturn⟩ | hQ := ht
    · by_cases hm : s.turn = m
      · exact .here (.inl ⟨hit, hPt, hm ▸ hturn⟩)
      · obtain ⟨u, hu⟩ := step_next_of_inv hit
        refine .step hu ?_
        obtain hPu | hQu := hstay t u hit hPt hu
        · have hlt := turnsBefore_succ_lt m s.turn hm
          rw [hd, ← hturn.next_turn hu] at hlt
          exact ih _ hlt (hit.step hu) hPu rfl
        · exact .here (.inr hQu)
    · exact .here (.inr hQ)

end Sys2Proof.Machine
end

section
/-! PROOF. What a step of a run brings (`47_sequencer.md` R250; `70_reset_and_hazards.md` R347): the run stays where it is, with
reads that stand or begin, or there is less to do in its phase, or a later phase follows. -/

namespace Sys2Proof.Machine

variable {s t u : State} {k : AxisIx} {e : Event} {i : Instr}

/-! ### How far a run has come -/

/-- The phases that can follow, with `CANCEL` set or not (R250). -/
def phasesAfter (cancel : Bool) : Phase → List Phase
  | .idle | .halted => []
  | .startup => [.between, .shutdown]
  | .tickStart => [.refresh]
  | .refresh => [.check]
  | .check => [.compute, .timing]
  | .compute => [.dispatch, .timing]
  | .dispatch => [.timing]
  | .timing => [.sleep, .between]
  | .sleep => [.between]
  | .between => if cancel then [.shutdown] else [.tickStart, .shutdown]
  | .shutdown => [.halted]

/-- How many transactions a worker has before it at most (R35). -/
def WStep.left : WStep → Nat
  | .t1 => 2
  | .t2 | .cmd => 1
  | .done => 0

/-- How much there is to do before the phase can end: transactions, or the time to sleep. -/
def State.toDo (s : State) : Nat :=
  match s.phase with
  | .refresh | .dispatch => ∑ k, (s.axis k).wstep.left
  | .startup | .shutdown => 2 * (32 - s.seqAxis) + (if s.seqStep = .enable then 1 else 0)
  | .sleep => s.tStart + s.period.getD 0 - s.now
  | .idle | .halted | .tickStart | .check | .compute | .timing | .between => 0

/-- The run is at the same place in `t` as in `s`. -/
structure SameRun (s t : State) : Prop where
  phase : t.phase = s.phase
  seqAxis : t.seqAxis = s.seqAxis
  seqStep : t.seqStep = s.seqStep
  tStart : t.tStart = s.tStart
  wstep : ∀ k, (t.axis k).wstep = (s.axis k).wstep

theorem SameRun.trans (h₁ : SameRun s t) (h₂ : SameRun t u) : SameRun s u where
  phase := h₂.phase.trans h₁.phase
  seqAxis := h₂.seqAxis.trans h₁.seqAxis
  seqStep := h₂.seqStep.trans h₁.seqStep
  tStart := h₂.tStart.trans h₁.tStart
  wstep k := (h₂.wstep k).trans (h₁.wstep k)

theorem sameRun_of_course (h : t.course = s.course) (hw : ∀ k, (t.axis k).wstep = (s.axis k).wstep) : SameRun s t := by
  simp only [State.course, Prod.mk.injEq] at h
  obtain ⟨hphase, -, hseqAxis, hseqStep, htStart, -⟩ := h
  exact ⟨hphase, hseqAxis, hseqStep, htStart, hw⟩

theorem ChannelsOnly.sameRun (h : ChannelsOnly s t) : SameRun s t :=
  ⟨h.phase, h.seqAxis, h.seqStep, (congrArg State.tStart h.1 :), h.axis_wstep⟩

/-- What a step of a run brings. -/
inductive Progress (s t : State) : Prop where
  | stays (hr : SameRun s t)
      (hw : ∀ k, (t.axis k).wait = (s.axis k).wait ∨ (s.axis k).wait = none ∧ (t.axis k).wait = some s.now)
  | lower (hp : t.phase = s.phase) (hlt : t.toDo < s.toDo)
      (hw : ∀ k, (t.axis k).wait = (s.axis k).wait ∨ (t.axis k).wait = none)
  | next (hp : t.phase ∈ phasesAfter s.cancel s.phase)

theorem Progress.of_withDrawn {events : List Event} {turn : Fin 34} {slack drawn : Nat}
    (h : Progress (s.withDrawn events turn slack drawn) t) : Progress s t := by
  cases h with
  | stays hr hw => exact .stays ⟨hr.phase, hr.seqAxis, hr.seqStep, hr.tStart, hr.wstep⟩ hw
  | lower hp hlt hw => exact .lower hp hlt hw
  | next hp => exact .next hp

/-! ### Exchanges -/

/-- What a move of an exchange on axis `k` brings: its read goes on, for the time it has, or it has ended. -/
inductive ExchangeMoved (s : State) (k : AxisIx) (t : State) : Prop where
  | reads (hr : SameRun s t) (hw : (t.axis k).wait = some ((s.axis k).wait.getD s.now))
      (htime : ∀ since T, (s.axis k).wait = some since → s.tRead = some T → s.now < since + T)
  | lower (hw : (t.axis k).wait = none) (hp : t.phase = s.phase) (hlt : t.toDo < s.toDo)
  | next (hw : (t.axis k).wait = none) (hp : t.phase ∈ phasesAfter s.cancel s.phase)

/-- A read that goes on has time left (R233). -/
theorem agentRead_in_time {n since T : Nat} (h : agentRead s k n since = (none, t)) (hT : s.tRead = some T) :
    s.now < since + T := by
  by_contra hlate
  cases hf : s.drawLink.1.readFails with
  | true => simp [agentRead_fails hf] at h
  | false =>
    by_cases hn : n ≤ (s.axis k).rxq.length
    · simp [agentRead_enough hf hn] at h
    · simp [agentRead_late hT hf (Nat.not_le.1 hn) (Nat.not_lt.1 hlate)] at h

theorem exchangeMoved_of_pending {x : Exchange} (h : x.transact s = (none, t)) : ExchangeMoved s x.axis t := by
  refine .reads (Exchange.inProgress h).frame.channels.sameRun (Exchange.inProgress h).wait fun since T hw hT => ?_
  simp only [Exchange.transact, agentTransact, hw] at h
  exact agentRead_in_time h hT

/-- With one worker's step done, less is to be done in a parallel phase. -/
theorem toDo_lt_of_wstep (hp : s.phase = .refresh ∨ s.phase = .dispatch) (hpt : t.phase = s.phase)
    (hother : ∀ j, j ≠ k → (t.axis j).wstep = (s.axis j).wstep)
    (hk : (t.axis k).wstep.left < (s.axis k).wstep.left) : t.toDo < s.toDo := by
  have hsum : ∑ j, (t.axis j).wstep.left < ∑ j, (s.axis j).wstep.left := by
    refine Finset.sum_lt_sum (fun j _ => ?_) ⟨k, Finset.mem_univ k, hk⟩
    by_cases hj : j = k
    · exact hj ▸ hk.le
    · rw [hother j hj]
  obtain hp | hp := hp
  · simpa only [State.toDo, hpt, hp] using hsum
  · simpa only [State.toDo, hpt, hp] using hsum

theorem toDo_of_stage (hp : s.phase = .startup ∨ s.phase = .shutdown) :
    s.toDo = 2 * (32 - s.seqAxis) + (if s.seqStep = .enable then 1 else 0) := by
  obtain hp | hp := hp
  · simp only [State.toDo, hp]
  · simp only [State.toDo, hp]

theorem Makes.seqAxis_lt {x : Exchange} (hx : Makes s .sequencer x) : s.seqAxis < 32 := by
  cases hx with
  | startup k _ hc | disable k _ hc => exact (State.currentAxis_some hc).1 ▸ k.isLt

theorem finish_wstep (u : State) (k : AxisIx) : ((u.finish k).axis k).wstep = .done := by
  rw [State.finish, State.axis_modAxis_self]

/-- The end of a worker's exchange leaves no read, and one step less. -/
theorem Makes.worker_end {x : Exchange} (hx : Makes s (.worker k) x) (h : ExchangeEnd x s t) :
    x.transact s = (none, t) ∨ (t.axis k).wait = none ∧ (t.axis k).wstep.left < (s.axis k).wstep.left := by
  cases h with
  | pending u h => exact .inl h
  | failed err u h =>
    right
    have hu := (Exchange.ended_of_err h).wait
    cases hx with
    | angle k _ _ hs | status k _ _ hs =>
      refine ⟨(((refreshFail_sameOn (fun _ => rfl) u k _ err).trans (finish_sameOn (fun _ => rfl) _ k)) k).trans hu, ?_⟩
      rw [hs]
      exact (congrArg WStep.left (finish_wstep _ k)).trans_lt (by decide)
    | torque k iq _ _ _ hs =>
      refine ⟨(finish_sameOn (g := Axis.wait) (fun _ => rfl) (u.report _) k k).trans hu, ?_⟩
      rw [hs]
      exact (congrArg WStep.left (finish_wstep _ k)).trans_lt (by decide)
  | done q u t h hd =>
    right
    have hu := (Exchange.ended_of_ok h).wait
    cases hx with
    | angle k _ _ hs =>
      obtain ⟨raw, -, rfl⟩ := Option.map_eq_some_iff.1 hd
      rw [hs, State.axis_modAxis_self]
      exact ⟨hu, by simp [WStep.left]⟩
    | status k _ _ hs =>
      obtain ⟨st, -, rfl⟩ := Option.map_eq_some_iff.1 hd
      rw [hs, refreshDone_finish, State.axis_modAxis_self]
      exact ⟨hu, by simp [WStep.left]⟩
    | torque k iq _ _ _ hs =>
      cases hd
      rw [hs, State.finish, State.axis_modAxis_self]
      exact ⟨hu, by simp [WStep.left]⟩

theorem Makes.worker_phase {x : Exchange} (hx : Makes s (.worker k) x) : s.phase = .refresh ∨ s.phase = .dispatch := by
  cases hx with
  | angle _ _ hp | status _ _ hp => exact .inl hp
  | torque _ _ _ hp => exact .inr hp

theorem Makes.worker_moved {x : Exchange} (hx : Makes s (.worker k) x) (h : workerMove s k = .next t) :
    ExchangeMoved s k t := by
  have hcourse := agentMove_course (e := .worker k) h nofun
  obtain hpending | ⟨hw, hk⟩ := hx.worker_end (Exchange.move_ends (hx.move.symm.trans h))
  · have hmoved := exchangeMoved_of_pending hpending
    rwa [hx.worker_axis] at hmoved
  · have hother (j : AxisIx) (hj : j ≠ k) : (t.axis j).wstep = (s.axis j).wstep := by
      rw [(workerMove_ends h).oneAxis.other j hj]
    exact .lower hw (phase_of_course hcourse) (toDo_lt_of_wstep hx.worker_phase (phase_of_course hcourse) hother hk)

/-- A move of the sequencer's exchange: the read goes on, or the place moves on, or `Startup` fails. -/
theorem Makes.sequencer_moved {x : Exchange} (hx : Makes s .sequencer x) (h : ExchangeEnd x s t) :
    ExchangeMoved s x.axis t := by
  have hlt := hx.seqAxis_lt
  cases hx with
  | startup k hp hc =>
    cases h with
    | pending u h => exact exchangeMoved_of_pending h
    | failed err u h => exact .next (Exchange.ended_of_err h).wait (by simp [startupExchange, startupFail, hp, phasesAfter])
    | done q u t h hd =>
      have hu := Exchange.ended_of_ok h
      have hc := hu.frame.channels
      obtain rfl : s.seqStep.advance k u = t := Option.some.inj hd
      have hphase := (StartStep.advance_phase s.seqStep k u).trans hc.phase
      refine .lower ((advance_sameOn (g := Axis.wait) (fun _ _ => rfl) _ k u k).trans hu.wait) hphase ?_
      rw [toDo_of_stage (.inl hp), toDo_of_stage (.inl (hphase.trans hp))]
      cases hs : s.seqStep with
      | enable => simp [StartStep.advance, hc.seqAxis]
      | zero =>
        simp [StartStep.advance, hc.seqAxis]
        omega
  | disable k hp hc =>
    have hlower (u : State) (hc : ChannelsOnly s u) (hp' : t.phase = u.phase) (hseq : t.seqAxis = u.seqAxis + 1)
        (hstep : t.seqStep = u.seqStep) : t.toDo < s.toDo := by
      rw [toDo_of_stage (.inr hp), toDo_of_stage (.inr ((hp'.trans hc.phase).trans hp)), hseq, hstep, hc.seqAxis,
        hc.seqStep]
      omega
    cases h with
    | pending u h => exact exchangeMoved_of_pending h
    | failed err u h =>
      have hu := Exchange.ended_of_err h
      exact .lower hu.wait hu.frame.channels.phase (hlower u hu.frame.channels rfl rfl rfl)
    | done q u t h hd =>
      cases hd
      have hu := Exchange.ended_of_ok h
      refine .lower ?_ hu.frame.channels.phase (hlower u hu.frame.channels rfl rfl rfl)
      exact (sameOn_modAxis u k (g := Axis.wait) (f := fun a => { a with life := .disabled }) (fun _ => rfl) k).trans hu.wait

/-! ### The moves of the agents -/

theorem ExchangeMoved.progress (h : ExchangeMoved s k t) (hother : ∀ j, j ≠ k → (t.axis j).wait = (s.axis j).wait) :
    Progress s t := by
  cases h with
  | reads hr hw =>
    refine .stays hr fun j => ?_
    by_cases hj : j = k
    · subst hj
      cases hs : (s.axis j).wait with
      | none => exact .inr ⟨rfl, by rw [hw, hs]; rfl⟩
      | some since => exact .inl (by rw [hw, hs]; rfl)
    · exact .inl (hother j hj)
  | lower hw hp hlt =>
    refine .lower hp hlt fun j => ?_
    by_cases hj : j = k
    · exact .inr (hj ▸ hw)
    · exact .inl (hother j hj)
  | next _ hp => exact .next hp

theorem progress_refl (s : State) : Progress s s := .stays ⟨rfl, rfl, rfl, rfl, fun _ => rfl⟩ fun _ => .inl rfl

theorem SequencerEnd.progress (h : SequencerEnd s t) : Progress s t := by
  cases h with
  | rests | waits | sleeps => exact progress_refl s
  | stage x t hx h => exact (hx.sequencer_moved h).progress fun j hj => by rw [hx.sequencer_other h hj]
  | started hp | halts hp | ticks hp | refreshed hp | dispatched hp | skips hp | checks hp | commands hp | computes _ _ hp
      | invalid _ hp | overruns _ hp | inTime _ hp | wakes _ hp =>
    exact .next (by simp [hp, phasesAfter, tickStartMove, State.enterDispatch])
  | cancelled hp hc | goesOn hp hc => exact .next (by simp [hp, hc, phasesAfter])

/-- The impedance command ends the worker, and reads nothing (R268). -/
theorem dispatchImpMove_ends_worker (h : dispatchImpMove s k = .next t) :
    (t.axis k).wait = (s.axis k).wait ∧ (t.axis k).wstep = .done := by
  unfold dispatchImpMove at h
  split at h
  next kp kd _ _ =>
    obtain ⟨u, -, -, hw, -, -, hend⟩ :=
      fireForget_spec s k 0xA8
        (impPayload (s.axis k).setpoints.1 (s.axis k).setpoints.2.1 kp kd (s.axis k).setpoints.2.2)
    dsimp only at h
    split at h
    next => cases h
    next v hx =>
      cases h
      rw [hx] at hend
      have hv : v.axis k = u.axis k := by
        obtain rfl | ⟨-, rfl⟩ := hend
        · rfl
        · rfl
      have hcleared : SameOn Axis.wait v (v.clearSamples k) := sameOn_modAxis v k fun _ => rfl
      refine ⟨?_, finish_wstep _ k⟩
      rw [(hcleared.trans (finish_sameOn (fun _ => rfl) _ k)) k, hv, hw]
  next => cases h

theorem CommandPending.lower (hpending : CommandPending s k) (h : dispatchImpMove s k = .next t) :
    t.phase = s.phase ∧ t.toDo < s.toDo := by
  have hmove := (workerMove_dispatch_imp hpending).trans h
  have hphase := phase_of_course (agentMove_course (e := .worker k) hmove nofun)
  obtain ⟨-, hdone⟩ := dispatchImpMove_ends_worker h
  obtain ⟨-, hp, -, hs⟩ := hpending
  refine ⟨hphase, toDo_lt_of_wstep (.inr hp) hphase (fun j hj => by rw [(workerMove_ends hmove).oneAxis.other j hj]) ?_⟩
  rw [hdone, hs]
  decide

theorem workerMove_progress (h : workerMove s k = .next t) : Progress s t := by
  have hother (j : AxisIx) (hj : j ≠ k) : (t.axis j).wait = (s.axis j).wait := by
    rw [(workerMove_ends h).oneAxis.other j hj]
  obtain rfl | ⟨x, hx⟩ | ⟨hpending, himp⟩ := workerMove_cases h
  · exact progress_refl t
  · exact (hx.worker_moved h).progress hother
  · obtain ⟨hp, hlt⟩ := hpending.lower himp
    refine .lower hp hlt fun j => .inl ?_
    by_cases hj : j = k
    · exact hj ▸ (dispatchImpMove_ends_worker himp).1
    · exact hother j hj

theorem agentMove_progress (h : agentMove e s = .next t) : Progress s t := by
  by_cases hout : OutsideAgent e
  · have hsame {α : Type} {g : Axis → α} (hg : IgnoresInputs g) : SameOn g s t := agentMove_sameOn hg hout h
    refine .stays (sameRun_of_course (agentMove_course h hout.1) (hsame fun _ _ hb => by rw [hb])) fun k => .inl ?_
    exact hsame (g := Axis.wait) (fun _ _ hb => by rw [hb]) k
  · cases e with
    | worker k => exact workerMove_progress h
    | sequencer => exact (sequencerMove_ends h).progress
    | request | write | read | device | time | sample => exact absurd ⟨nofun, nofun⟩ hout

/-! ### Steps -/

theorem Inside.progress (h : Inside s t) : Progress s t := by
  refine .stays ⟨h.phase, ?_, ?_, ?_, fun k => by rw [h.axis k]⟩ fun k => .inl (by rw [h.axis k])
  · exact (congrArg State.seqAxis h.eq :)
  · exact (congrArg State.seqStep h.eq :)
  · exact (congrArg State.tStart h.eq :)

/-- A set `CANCEL` stays set in a run (R301). -/
theorem exec_keeps_cancel (hb : s.busy = true) (h : exec i s = .next t) (hc : s.cancel = true) : t.cancel = true := by
  by_cases hrun : i = .run
  · subst hrun
    obtain rfl := Host.Outcome.next.inj ((exec_run_busy hb).symm.trans h)
    exact hc
  · by_cases hcancel : i = .cancel
    · subst hcancel
      cases h
      rfl
    · obtain ⟨u, hu, hround⟩ := exec_keepsRound s hrun hcancel
      obtain rfl := Host.Outcome.next.inj (hu.symm.trans h)
      simp only [State.round, Prod.mk.injEq] at hround
      obtain ⟨-, -, -, -, hcancel'⟩ := hround
      exact hcancel'.trans hc

theorem step_progress (hb : s.busy = true) (h : step s = .next t) : Progress s t ∧ (s.cancel = true → t.cancel = true) := by
  cases hstart : s.port.start with
  | true =>
    cases hdec : decode s.placed with
    | error err =>
      obtain rfl := Host.Outcome.next.inj ((step_of_decode_error hstart hdec).symm.trans h)
      exact ⟨((inside_taken s).trans (inside_answer _ _)).progress, id⟩
    | ok i =>
      rw [step_of_decode_ok hstart hdec] at h
      exact ⟨((inside_taken s).trans ((exec_updates h).inside hb)).progress, exec_keeps_cancel (s := s.taken) hb h⟩
  | false =>
    obtain ⟨events, turn, slack, drawn, hdraw⟩ := step_eq_agentMove hstart
    rw [hdraw] at h
    exact ⟨(agentMove_progress h).of_withDrawn, fun hc => (congrArg (·.2.2) (agentMove_roundAndCancel h)).trans hc⟩

end Sys2Proof.Machine
end

section
/-! PROOF. Every phase of a run ends (`47_sequencer.md` R282; `70_reset_and_hazards.md` R347). While a run stays where it is, the
turns come round; a turn of an agent with a read in progress ends the read once its time is over, and as every such turn comes,
time passes; so there comes to be less to do in the phase, and at last a later phase. -/

namespace Sys2Proof.Machine

variable {s t u r : State} {k : AxisIx} {e : Event} {m : Fin 34} {P Q : State → Prop}

/-! ### Staying and leaving -/

/-- The run of `s` is still where it was in `t`. -/
structure Here (s t : State) : Prop where
  run : SameRun s t
  nax : t.nax = s.nax
  period : t.period = s.period
  tRead : t.tRead = s.tRead
  now : s.now ≤ t.now
  cancel : s.cancel = true → t.cancel = true

theorem here_refl (s : State) : Here s s := ⟨⟨rfl, rfl, rfl, rfl, fun _ => rfl⟩, rfl, rfl, rfl, le_rfl, id⟩

/-- A later phase follows, or less is to be done in the phase. -/
def Left (s t : State) : Prop :=
  (s.cancel = true → t.cancel = true) ∧
    (t.phase ∈ phasesAfter s.cancel s.phase ∨ t.phase = s.phase ∧ t.toDo < s.toDo)

theorem Here.busy (h : Here s t) (hb : s.busy = true) : t.busy = true := by
  rw [busy_iff] at hb ⊢
  rwa [h.run.phase]

theorem Here.active (h : Here s t) (k : AxisIx) : t.active k = s.active k := by simp only [State.active, h.nax]

theorem Here.currentAxis (h : Here s t) : t.currentAxis = s.currentAxis := by
  simp only [State.currentAxis, h.active, h.run.seqAxis]

theorem Here.toDo_le (h : Here s t) : t.toDo ≤ s.toDo := by
  have hphase := h.run.phase
  have hnow := h.now
  cases hp : s.phase
  all_goals simp only [State.toDo, hphase, hp, h.run.wstep, h.run.seqAxis, h.run.seqStep, h.run.tStart, h.period]
  all_goals omega

/-- A set flag leaves fewer phases to follow. -/
theorem mem_phasesAfter {c d : Bool} {p q : Phase} (hcd : c = true → d = true) (h : q ∈ phasesAfter d p) :
    q ∈ phasesAfter c p := by
  cases c with
  | true => rwa [hcd rfl] at h
  | false =>
    cases d with
    | false => exact h
    | true => cases p <;> simp_all [phasesAfter]

theorem Here.left_of_next (h : Here s r) (hc : r.cancel = true → t.cancel = true)
    (hp : t.phase ∈ phasesAfter r.cancel r.phase) :
    Left s t :=
  ⟨hc ∘ h.cancel, .inl (mem_phasesAfter h.cancel (h.run.phase ▸ hp))⟩

theorem Here.left_of_lower (h : Here s r) (hc : r.cancel = true → t.cancel = true) (hp : t.phase = r.phase)
    (hlt : t.toDo < r.toDo) : Left s t :=
  ⟨hc ∘ h.cancel, .inr ⟨hp.trans h.run.phase, hlt.trans_le h.toDo_le⟩⟩

/-- The configuration stands and time does not go back in a step of a run. -/
theorem Here.after_step (h : Here s r) (hb : s.busy = true) (hstep : step r = .next t) (hr : SameRun r t) : Here s t := by
  obtain ⟨hnax, -, -, -, hperiod, htRead, -⟩ := Proofs.configurationIsImmutableInARun r t hstep (h.busy hb)
  obtain ⟨-, -, hnow⟩ := Proofs.historiesOnlyGrow r t hstep
  obtain ⟨-, hcancel⟩ := step_progress (h.busy hb) hstep
  exact ⟨h.run.trans hr, hnax.trans h.nax, hperiod.trans h.period, htRead.trans h.tRead, h.now.trans hnow,
    hcancel ∘ h.cancel⟩

/-- A step from where the run of `s` is: the reads stand or begin, or the run leaves. -/
theorem Here.step_cases (h : Here s r) (hb : s.busy = true) (hstep : step r = .next t) :
    (Here s t ∧
      ∀ k, (t.axis k).wait = (r.axis k).wait ∨ (r.axis k).wait = none ∧ (t.axis k).wait = some r.now) ∨ Left s t := by
  obtain ⟨hprogress, hcancel⟩ := step_progress (h.busy hb) hstep
  cases hprogress with
  | stays hr hw => exact .inl ⟨h.after_step hb hstep hr, hw⟩
  | lower hp hlt => exact .inr (h.left_of_lower hcancel hp hlt)
  | next hp => exact .inr (h.left_of_next hcancel hp)

theorem stays_here (hb : s.busy = true) : Stays (Here s) (Left s) := fun _ _ _ h hstep =>
  (h.step_cases hb hstep).imp_left And.left

/-! ### Whose work it is -/

/-- Agent `e` has a transaction to make on channel `k`. -/
inductive Works (s : State) : Event → AxisIx → Prop where
  | worker (k : AxisIx) (hs : (s.axis k).wstep ≠ .done) : Works s (.worker k) k
  | sequencer (k : AxisIx) (hp : s.phase = .startup ∨ s.phase = .shutdown) (hc : s.currentAxis = some k) :
    Works s .sequencer k

theorem Works.here (h : Here s t) (hw : Works s e k) : Works t e k := by
  cases hw with
  | worker _ hs => exact .worker k (by rwa [h.run.wstep])
  | sequencer _ hp hc => exact .sequencer k (by rwa [h.run.phase]) (by rwa [h.currentAxis])

/-- The place of the agent that works on channel `k` in the round of turns. -/
def ownerTurn (p : Phase) (k : AxisIx) : Fin 34 :=
  if p = .startup ∨ p = .shutdown then 32 else ⟨k.val, by omega⟩

theorem turnMove_worker (k : AxisIx) : turnMove ⟨k.val, by omega⟩ = .worker k := by simp [turnMove]

theorem Inv.worker_phase (hi : Inv s) (hs : (s.axis k).wstep ≠ .done) :
    s.active k = true ∧ (s.phase = .refresh ∧ ((s.axis k).wstep = .t1 ∨ (s.axis k).wstep = .t2) ∨
      s.phase = .dispatch ∧ (s.axis k).wstep = .cmd) := by
  obtain h | ⟨hk, hp, hs⟩ | ⟨hk, hp, hs⟩ := (hi.axis k).wstep
  · exact absurd h hs
  · exact ⟨hk, .inl ⟨hp, hs⟩⟩
  · exact ⟨hk, .inr ⟨hp, hs⟩⟩

theorem Works.turn (hi : Inv s) (hw : Works s e k) : turnMove (ownerTurn s.phase k) = e := by
  cases hw with
  | worker _ hs =>
    have hp : ¬(s.phase = .startup ∨ s.phase = .shutdown) := by
      obtain ⟨-, ⟨hp, -⟩ | ⟨hp, -⟩⟩ := hi.worker_phase hs <;> simp [hp]
    rw [ownerTurn, if_neg hp, turnMove_worker]
  | sequencer _ hp =>
    rw [ownerTurn, if_pos hp]
    rfl

/-- A read in progress is some agent's work (R67). -/
theorem Inv.works_of_wait (hi : Inv s) {since : Nat} (hw : (s.axis k).wait = some since) : ∃ e, Works s e k := by
  obtain ⟨hs | hs | ⟨hs, -⟩ | ⟨hp, hc⟩, -⟩ := (hi.axis k).wait since hw
  · exact ⟨_, .worker k (by simp [hs])⟩
  · exact ⟨_, .worker k (by simp [hs])⟩
  · exact ⟨_, .worker k (by simp [hs])⟩
  · exact ⟨_, .sequencer k hp hc⟩

/-- A move of the agent whose work it is. -/
theorem Works.moved (hi : Inv s) (hw : Works s e k) (h : agentMove e s = .next t) : ExchangeMoved s k t := by
  cases hw with
  | worker _ hs =>
    obtain ⟨hk, ⟨hp, hs | hs⟩ | ⟨hp, hs⟩⟩ := hi.worker_phase hs
    · exact (Makes.angle k hk hp hs).worker_moved h
    · exact (Makes.status k hk hp hs).worker_moved h
    · cases hm : s.mode with
      | pd =>
        obtain ⟨iq, hq⟩ := Option.isSome_iff_exists.1 ((hi.axis k).torque hp hm hs)
        exact (Makes.torque k iq hk hp hm hs hq).worker_moved h
      | imp =>
        have hpending : CommandPending s k := ⟨hk, hp, hm, hs⟩
        have himp := (workerMove_dispatch_imp hpending).symm.trans h
        obtain ⟨hphase, hlt⟩ := hpending.lower himp
        exact .lower ((dispatchImpMove_ends_worker himp).1.trans ((hi.axis k).wait_of_imp hp hm)) hphase hlt
  | sequencer _ hp hc =>
    obtain hp | hp := hp
    · have hx := Makes.startup k hp hc
      exact hx.sequencer_moved (Exchange.move_ends (hx.move.symm.trans h))
    · have hx := Makes.disable k hp hc
      exact hx.sequencer_moved (Exchange.move_ends (hx.move.symm.trans h))

/-! ### A turn -/

theorem Inv.withDrawn (hi : Inv s) (events : List Event) (turn : Fin 34) (slack drawn : Nat) :
    Inv (s.withDrawn events turn slack drawn) :=
  hi.inside ⟨rfl, List.prefix_rfl, id⟩

theorem Works.withDrawn (hw : Works s e k) (events : List Event) (turn : Fin 34) (slack drawn : Nat) :
    Works (s.withDrawn events turn slack drawn) e k := by
  cases hw with
  | worker _ hs => exact .worker k hs
  | sequencer _ hp hc => exact .sequencer k hp hc

theorem AtTurn.step_withDrawn (h : AtTurn s m) :
    ∃ events turn slack drawn, step s = agentMove (turnMove m) (s.withDrawn events turn slack drawn) := by
  obtain ⟨events, turn, slack, drawn, hstep⟩ := step_eq_agentMove h.start
  exact ⟨events, turn, slack, drawn, by rw [hstep, h.drawEvent.1]⟩

/-- In its turn the agent whose work it is moves. -/
theorem AtTurn.moved (h : AtTurn s (ownerTurn s.phase k)) (hi : Inv s) (hw : Works s e k) (hstep : step s = .next t) :
    ExchangeMoved s k t := by
  obtain ⟨events, turn, slack, drawn, heq⟩ := h.step_withDrawn
  rw [hw.turn hi, hstep] at heq
  cases (hw.withDrawn events turn slack drawn).moved (hi.withDrawn events turn slack drawn) heq.symm with
  | reads hr hw htime => exact .reads ⟨hr.phase, hr.seqAxis, hr.seqStep, hr.tStart, hr.wstep⟩ hw htime
  | lower hw hp hlt => exact .lower hw hp hlt
  | next hw hp => exact .next hw hp

end Sys2Proof.Machine
end

section
/-! PROOF. Time passes (`70_reset_and_hazards.md` R346, R347): while a run stays where it is, a read that holds time up ends or
goes on for longer at its agent's turn, so that after the turns of all agents time's own turn lets time pass; and a read in
progress ends at its agent's turn once its time is over. -/

namespace Sys2Proof.Machine

variable {s t u r : State} {k : AxisIx} {e : Event} {m : Fin 34} {P Q : State → Prop}

/-- No read on channel `k` holds time up. -/
def Fresh (s : State) (k : AxisIx) : Prop :=
  ∀ since T, (s.axis k).wait = some since → s.tRead = some T → s.now < since + T

theorem fresh_of_wait_none (h : (s.axis k).wait = none) : Fresh s k := fun since T hw => by simp [h] at hw

/-- A read that has just begun has time left, for `T_READ` is not 0 (R43, R309). -/
theorem Inv.fresh_of_wait_now (hi : Inv s) (h : (s.axis k).wait = some s.now) : Fresh s k := by
  intro since T hw hT
  obtain rfl : s.now = since := Option.some.inj (h.symm.trans hw)
  obtain ⟨-, -, -, hpos⟩ := hi.control.legal
  have hT1 := hpos T hT
  omega

theorem Fresh.congr (h : Fresh s k) (hw : (t.axis k).wait = (s.axis k).wait) (hT : t.tRead = s.tRead) (hn : t.now = s.now) :
    Fresh t k := by
  unfold Fresh
  rw [hw, hT, hn]
  exact h

/-- Where the run stays, a step at the same instant leaves fresh what was fresh. -/
theorem Fresh.step (h : Fresh r k) (hi : Inv t)
    (hw : (t.axis k).wait = (r.axis k).wait ∨ (r.axis k).wait = none ∧ (t.axis k).wait = some r.now)
    (hT : t.tRead = r.tRead) (hn : t.now = r.now) : Fresh t k := by
  obtain hw | ⟨-, hw⟩ := hw
  · exact h.congr hw hT hn
  · exact hi.fresh_of_wait_now (by rw [hw, hn])

/-- `P` holds at the instant `n`, and the reads whose agents have had their turn, the first `m` of the round, are fresh. -/
def Freshened (P : State → Prop) (n m : Nat) (t : State) : Prop :=
  P t ∧ t.now = n ∧ ∀ k, (ownerTurn t.phase k).val < m → Fresh t k

/-- `P` holds, and the instant `n` is past. -/
def Later (P : State → Prop) (n : Nat) (t : State) : Prop := Inv t ∧ P t ∧ n < t.now

/-- What a step brings from a state where `P` holds at the instant `n`: it is past, or the reads stand or begin. -/
theorem stays_or_later (hb : s.busy = true) (hP : ∀ t, P t → Here s t) (hstay : Stays P (Left s)) {n : Nat} (hi : Inv r)
    (hPr : P r) (hn : r.now = n) (hstep : step r = .next t) :
    (P t ∧ t.now = n ∧ t.phase = r.phase ∧ t.tRead = r.tRead ∧
      ∀ k, (t.axis k).wait = (r.axis k).wait ∨ (r.axis k).wait = none ∧ (t.axis k).wait = some r.now) ∨
      Later P n t ∨ Left s t := by
  have hr := hP r hPr
  obtain hPt | hleft := hstay r t hi hPr hstep
  · obtain ⟨ht, hw⟩ | hleft := hr.step_cases hb hstep
    · obtain ⟨-, -, hle⟩ := Proofs.historiesOnlyGrow r t hstep
      obtain hlt | heq := lt_or_eq_of_le hle
      · exact .inr (.inl ⟨hi.step hstep, hPt, hn ▸ hlt⟩)
      · exact .inl ⟨hPt, heq ▸ hn, ht.run.phase.trans hr.run.phase.symm, ht.tRead.trans hr.tRead.symm, hw⟩
    · exact .inr (.inr hleft)
  · exact .inr (.inr hleft)

theorem stays_freshened (hb : s.busy = true) (hP : ∀ t, P t → Here s t) (hstay : Stays P (Left s)) (n m : Nat) :
    Stays (Freshened P n m) fun t => Later P n t ∨ Left s t := by
  rintro r t hi ⟨hPr, hn, hfresh⟩ hstep
  refine (stays_or_later hb hP hstay hi hPr hn hstep).imp_left ?_
  rintro ⟨hPt, hnt, hphase, hT, hw⟩
  exact ⟨hPt, hnt, fun k hk => (hfresh k (hphase ▸ hk)).step (hi.step hstep) (hw k) hT (hnt.trans hn.symm)⟩

/-- After the turn of an agent its reads are fresh too. -/
theorem Freshened.after_turn (hb : s.busy = true) (hP : ∀ t, P t → Here s t) (hstay : Stays P (Left s)) {n : Nat} (hi : Inv r)
    (h : Freshened P n m r) (hturn : AtTurn r m) (hstep : step r = .next t) :
    Freshened P n (m.val + 1) t ∨ Later P n t ∨ Left s t := by
  obtain ⟨hPr, hn, hfresh⟩ := h
  refine (stays_or_later hb hP hstay hi hPr hn hstep).imp_left ?_
  rintro ⟨hPt, hnt, hphase, hT, hw⟩
  have hit := hi.step hstep
  refine ⟨hPt, hnt, fun k hk => ?_⟩
  obtain hlt | heq := Nat.lt_succ_iff_lt_or_eq.1 hk
  · exact (hfresh k (hphase ▸ hlt)).step hit (hw k) hT (hnt.trans hn.symm)
  · cases hrw : (r.axis k).wait with
    | none =>
      obtain hsame | ⟨-, hnow⟩ := hw k
      · exact fresh_of_wait_none (hsame.trans hrw)
      · exact hit.fresh_of_wait_now (by rw [hnow, hn, hnt])
    | some since =>
      obtain ⟨e, hworks⟩ := hi.works_of_wait hrw
      obtain rfl : ownerTurn r.phase k = m := Fin.ext (hphase ▸ heq)
      cases hturn.moved hi hworks hstep with
      | reads _ hwait htime =>
        intro since' T hw' hT'
        have hsince : since' = since := by
          rw [hwait, hrw] at hw'
          exact (Option.some.inj hw').symm
        rw [hsince, hnt, ← hn]
        exact htime since T hrw (hT ▸ hT')
      | lower hwait | next hwait => exact fresh_of_wait_none hwait

theorem reaches_freshened (hb : s.busy = true) (hP : ∀ t, P t → Here s t) (hstay : Stays P (Left s)) (hi : Inv r) (hPr : P r)
    {m : Nat} (hm : m ≤ 33) :
    Reaches r fun t => (Inv t ∧ Freshened P r.now m t) ∨ Later P r.now t ∨ Left s t := by
  induction m with
  | zero => exact .here (.inl ⟨hi, hPr, rfl, fun k hk => absurd hk (Nat.not_lt_zero _)⟩)
  | succ m ih =>
    refine (ih (by omega)).bind fun t ht => ?_
    obtain ⟨hit, hfresh⟩ | hdone := ht
    · refine (reaches_turn ⟨m, by omega⟩ (stays_freshened hb hP hstay r.now m) hit hfresh).bind fun u hu => ?_
      obtain ⟨hiu, hfresh, hturn⟩ | hdone := hu
      · obtain ⟨v, hv⟩ := step_next_of_inv hiu
        refine .step hv (.here ?_)
        exact (hfresh.after_turn hb hP hstay hiu hturn hv).imp_left fun h => ⟨hiu.step hv, h⟩
      · exact .here (.inr hdone)
    · exact .here (.inr hdone)

/-- With every read fresh, time passes in its turn. -/
theorem AtTurn.time_passes (h : AtTurn s 33) (hfresh : ∀ k, Fresh s k) (hstep : step s = .next t) : s.now < t.now := by
  obtain ⟨events, turn, slack, drawn, heq⟩ := h.step_withDrawn
  obtain rfl : (s.withDrawn events turn slack drawn).passTime 1 = t := Host.Outcome.next.inj (heq.symm.trans hstep)
  obtain ⟨-, -, -, -, hfull⟩ := (s.withDrawn events turn slack drawn).passTime_spec 1
  have hnow := hfull fun T hT k since hw => hfresh k since T hw hT
  rw [hnow]
  exact Nat.lt_succ_self s.now

/-- While the run stays where it is, time passes. -/
theorem reaches_later (hb : s.busy = true) (hP : ∀ t, P t → Here s t) (hstay : Stays P (Left s)) (hi : Inv r) (hPr : P r) :
    Reaches r fun t => Later P r.now t ∨ Left s t := by
  refine (reaches_freshened hb hP hstay hi hPr (m := 33) le_rfl).bind fun t ht => ?_
  obtain ⟨hit, hfresh⟩ | hdone := ht
  · refine (reaches_turn 33 (stays_freshened hb hP hstay r.now 33) hit hfresh).bind fun u hu => ?_
    obtain ⟨hiu, ⟨hPu, hnu, hfresh⟩, hturn⟩ | hdone := hu
    · obtain ⟨v, hv⟩ := step_next_of_inv hiu
      refine .step hv (.here ?_)
      have hlt : u.now < v.now := hturn.time_passes (fun k => hfresh k ?_) hv
      · exact (hstay u v hiu hPu hv).imp_left fun hPv => ⟨hiu.step hv, hPv, hnu ▸ hlt⟩
      · unfold ownerTurn
        split
        next => decide
        next => exact k.isLt.trans (by decide)
    · exact .here hdone
  · exact .here hdone

/-- While the run stays where it is, any instant comes. -/
theorem reaches_time (hb : s.busy = true) (hP : ∀ t, P t → Here s t) (hstay : Stays P (Left s)) (D : Nat) (hi : Inv r)
    (hPr : P r) : Reaches r fun t => (Inv t ∧ P t ∧ D ≤ t.now) ∨ Left s t := by
  induction hd : D - r.now using Nat.strong_induction_on generalizing r with
  | _ d ih =>
    by_cases hD : D ≤ r.now
    · exact .here (.inl ⟨hi, hPr, hD⟩)
    · refine (reaches_later hb hP hstay hi hPr).bind fun t ht => ?_
      obtain ⟨hit, hPt, hlt⟩ | hleft := ht
      · exact ih (D - t.now) (by omega) hit hPt rfl
      · exact .here (.inr hleft)

/-! ### A read in progress ends -/

/-- The run of `s` is where it was, with the read on channel `k` called at `since`. -/
def Reading (s : State) (k : AxisIx) (since : Nat) (t : State) : Prop := Here s t ∧ (t.axis k).wait = some since

theorem stays_reading (hb : s.busy = true) (k : AxisIx) (since : Nat) : Stays (Reading s k since) (Left s) := by
  rintro r t - ⟨hr, hw⟩ hstep
  refine (hr.step_cases hb hstep).imp_left ?_
  rintro ⟨ht, hwaits⟩
  obtain hsame | ⟨hnone, -⟩ := hwaits k
  · exact ⟨ht, hsame.trans hw⟩
  · simp [hw] at hnone

theorem Here.left_of_moved (h : Here s r) (hb : s.busy = true) (hstep : step r = .next t) (hmoved : ExchangeMoved r k t) :
    Left s t ∨ ∃ since, (t.axis k).wait = some since ∧
      ∀ since' T, (r.axis k).wait = some since' → r.tRead = some T → r.now < since' + T := by
  obtain ⟨-, hcancel⟩ := step_progress (h.busy hb) hstep
  cases hmoved with
  | reads _ hw htime => exact .inr ⟨_, hw, htime⟩
  | lower _ hp hlt => exact .inl (h.left_of_lower hcancel hp hlt)
  | next _ hp => exact .inl (h.left_of_next hcancel hp)

theorem reaches_left_of_reading (hb : s.busy = true) (hworks : Works s e k) {since : Nat} (hi : Inv r)
    (hr : Reading s k since r) : Reaches r (Left s) := by
  obtain ⟨T, hT⟩ := hi.tRead_eq_some (hr.1.busy hb)
  have hTs : s.tRead = some T := hr.1.tRead.symm.trans hT
  refine (reaches_time hb (fun _ h => h.1) (stays_reading hb k since) (since + T) hi hr).bind fun t ht => ?_
  obtain ⟨hit, hread, hlate⟩ | hleft := ht
  · have hstay : Stays (fun t => Reading s k since t ∧ since + T ≤ t.now) (Left s) := by
      rintro u v hiu ⟨hu, hlate⟩ hstep
      obtain ⟨-, -, hle⟩ := Proofs.historiesOnlyGrow u v hstep
      exact (stays_reading hb k since u v hiu hu hstep).imp_left fun h => ⟨h, hlate.trans hle⟩
    refine (reaches_turn (ownerTurn s.phase k) hstay hit ⟨hread, hlate⟩).bind fun u hu => ?_
    obtain ⟨hiu, ⟨⟨hhere, hw⟩, hlate⟩, hturn⟩ | hleft := hu
    · obtain ⟨v, hv⟩ := step_next_of_inv hiu
      refine .step hv (.here ?_)
      rw [← hhere.run.phase] at hturn
      obtain hleft | ⟨-, -, htime⟩ := hhere.left_of_moved hb hv (hturn.moved hiu (hworks.here hhere) hv)
      · exact hleft
      · exact absurd (htime since T hw (hhere.tRead.trans hTs)) (Nat.not_lt.2 hlate)
    · exact .here hleft
  · exact .here hleft

/-- Work that is there is done, with less to do after it or a later phase. -/
theorem reaches_left_of_works (hi : Inv s) (hb : s.busy = true) (hworks : Works s e k) : Reaches s (Left s) := by
  refine (reaches_turn (ownerTurn s.phase k) (stays_here hb) hi (here_refl s)).bind fun r hr => ?_
  obtain ⟨hir, hhere, hturn⟩ | hleft := hr
  · obtain ⟨t, ht⟩ := step_next_of_inv hir
    refine .step ht ?_
    rw [← hhere.run.phase] at hturn
    obtain hleft | ⟨since, hw, -⟩ := hhere.left_of_moved hb ht (hturn.moved hir (hworks.here hhere) ht)
    · exact .here hleft
    · obtain ⟨hheret, -⟩ | hleft := hhere.step_cases hb ht
      · exact reaches_left_of_reading hb hworks (hir.step ht) ⟨hheret, hw⟩
      · exact .here hleft
  · exact .here hleft

end Sys2Proof.Machine
end

section
/-! PROOF. Runs get on (`47_sequencer.md` R274, R282; `70_reset_and_hazards.md` R347): where no transaction is to be made and no
time to be slept, the sequencer goes to a later phase; so every phase ends, and the phases come to `Between` or `Halted`. -/

namespace Sys2Proof.Machine

variable {s t u r : State} {k : AxisIx} {e : Event} {m : Fin 34}

/-- Nothing keeps the sequencer from a later phase. -/
structure Ready (s : State) : Prop where
  busy : s.busy = true
  noWork : ∀ e k, ¬ Works s e k
  slept : s.phase = .sleep → ∀ p, s.period = some p → s.tStart + p ≤ s.now

theorem Works.of_here (h : Here s t) (hw : Works t e k) : Works s e k := by
  cases hw with
  | worker _ hs => exact .worker k (by rwa [← h.run.wstep])
  | sequencer _ hp hc => exact .sequencer k (by rwa [← h.run.phase]) (by rwa [← h.currentAxis])

theorem Ready.here (hr : Ready s) (h : Here s t) : Ready t where
  busy := h.busy hr.busy
  noWork e k hw := hr.noWork e k (hw.of_here h)
  slept hp p hper := by
    have hslept := hr.slept (h.run.phase ▸ hp) p (h.period ▸ hper)
    rw [h.run.tStart]
    exact hslept.trans h.now

theorem Ready.withDrawn (hr : Ready s) (events : List Event) (turn : Fin 34) (slack drawn : Nat) :
    Ready (s.withDrawn events turn slack drawn) where
  busy := hr.busy
  noWork e k hw := hr.noWork e k (by
    cases hw with
    | worker _ hs => exact .worker k hs
    | sequencer _ hp hc => exact .sequencer k hp hc)
  slept := hr.slept

/-- The move of a sequencer that nothing keeps goes to a later phase (R250). -/
theorem Ready.next (hr : Ready s) (h : sequencerMove s = .next t) : t.phase ∈ phasesAfter s.cancel s.phase := by
  cases sequencerMove_ends h with
  | rests hp =>
    have hidle := not_busy_iff.2 hp
    simp [hr.busy] at hidle
  | stage x _ hx =>
    cases hx with
    | startup k hp hc => exact absurd (.sequencer k (.inl hp) hc) (hr.noWork _ k)
    | disable k hp hc => exact absurd (.sequencer k (.inr hp) hc) (hr.noWork _ k)
  | waits _ hb =>
    refine absurd ((State.barrierPassed_iff s).2 fun k _ => ?_) hb
    by_contra hs
    exact hr.noWork _ k (.worker k hs)
  | sleeps p hp hper hlt => exact absurd (hr.slept hp p hper) (Nat.not_le.2 hlt)
  | started hp | halts hp | ticks hp | refreshed hp | dispatched hp | skips hp | checks hp | commands hp | computes _ _ hp
      | invalid _ hp | overruns _ hp | inTime _ hp | wakes _ hp =>
    simp [hp, phasesAfter, tickStartMove, State.enterDispatch]
  | cancelled hp hc | goesOn hp hc => simp [hp, hc, phasesAfter]

theorem reaches_left_of_ready (hi : Inv s) (hready : Ready s) : Reaches s (Left s) := by
  refine (reaches_turn 32 (stays_here hready.busy) hi (here_refl s)).bind fun r hr => ?_
  obtain ⟨hir, hhere, hturn⟩ | hleft := hr
  · obtain ⟨t, ht⟩ := step_next_of_inv hir
    refine .step ht (.here ?_)
    obtain ⟨-, hcancel⟩ := step_progress (hhere.busy hready.busy) ht
    obtain ⟨events, turn, slack, drawn, heq⟩ := hturn.step_withDrawn
    exact hhere.left_of_next hcancel (((hready.here hhere).withDrawn events turn slack drawn).next (heq.symm.trans ht))
  · exact .here hleft

/-- The sleep of a run comes to its end (R272). -/
theorem reaches_left_of_sleep (hi : Inv s) {p : Nat} (hp : s.phase = .sleep) (hper : s.period = some p)
    (hlt : s.now < s.tStart + p) : Reaches s (Left s) := by
  have hb : s.busy = true := by simp [State.busy, hp]
  refine (reaches_later hb (fun _ h => h) (stays_here hb) hi (here_refl s)).mono fun t ht => ?_
  obtain ⟨-, hhere, hnow⟩ | hleft := ht
  · refine ⟨hhere.cancel, .inr ⟨hhere.run.phase, ?_⟩⟩
    simp only [State.toDo, hhere.run.phase, hp, hhere.run.tStart, hhere.period, hper, Option.getD_some]
    omega
  · exact hleft

/-- From every state of a run there comes to be less to do, or a later phase. -/
theorem reaches_left (hi : Inv s) (hb : s.busy = true) : Reaches s (Left s) := by
  by_cases hwork : ∃ e k, Works s e k
  · obtain ⟨e, k, hworks⟩ := hwork
    exact reaches_left_of_works hi hb hworks
  · by_cases hsleep : ∃ p, s.phase = .sleep ∧ s.period = some p ∧ s.now < s.tStart + p
    · obtain ⟨p, hp, hper, hlt⟩ := hsleep
      exact reaches_left_of_sleep hi hp hper hlt
    · refine reaches_left_of_ready hi ⟨hb, fun e k hw => hwork ⟨e, k, hw⟩, fun hp p hper => ?_⟩
      by_contra hlt
      exact hsleep ⟨p, hp, hper, Nat.not_le.1 hlt⟩

/-- A run keeps the invariants. -/
theorem Inv.runSteps (hi : Inv s) {n : Nat} (h : runSteps n s = .next t) : Inv t := by
  induction n generalizing s with
  | zero =>
    cases h
    exact hi
  | succ n ih =>
    obtain ⟨u, hu⟩ := step_next_of_inv hi
    exact ih (hi.step hu) ((runSteps_succ n hu).symm.trans h)

theorem reaches_inv {p : State → Prop} (hi : Inv s) (h : Reaches s p) : Reaches s fun t => Inv t ∧ p t := by
  obtain ⟨n, t, ht, hp⟩ := h
  exact ⟨n, t, ht, hi.runSteps ht, hp⟩

/-- Every phase of a run ends. -/
theorem reaches_next_phase (hi : Inv s) (hb : s.busy = true) :
    Reaches s fun t => Inv t ∧ (s.cancel = true → t.cancel = true) ∧ t.phase ∈ phasesAfter s.cancel s.phase := by
  induction hd : s.toDo using Nat.strong_induction_on generalizing s with
  | _ d ih =>
    refine (reaches_inv hi (reaches_left hi hb)).bind fun t ht => ?_
    obtain ⟨hit, hcancel, hnext | ⟨hp, hlt⟩⟩ := ht
    · exact .here ⟨hit, hcancel, hnext⟩
    · have hbt : t.busy = true := by
        rw [busy_iff] at hb ⊢
        rwa [hp]
      refine (ih t.toDo (hd ▸ hlt) hit hbt rfl).mono ?_
      rintro u ⟨hiu, hcancel', hnext⟩
      exact ⟨hiu, hcancel' ∘ hcancel, mem_phasesAfter hcancel (hp ▸ hnext)⟩

/-- How many phases come before the end of a run at most, if it is cancelled. -/
def Phase.toGo : Phase → Nat
  | .idle | .halted => 0
  | .shutdown => 1
  | .between => 2
  | .startup | .sleep => 3
  | .timing => 4
  | .dispatch => 5
  | .compute => 6
  | .check => 7
  | .refresh => 8
  | .tickStart => 9

theorem toGo_lt_of_cancelled {p q : Phase} (h : q ∈ phasesAfter true p) : q.toGo < p.toGo ∧ q ≠ .idle := by
  cases p
  all_goals
    simp only [phasesAfter, if_true, List.mem_cons, List.not_mem_nil, or_false] at h
  case startup | check | compute | timing => obtain rfl | rfl := h <;> decide
  case tickStart | refresh | dispatch | sleep | between | shutdown =>
    subst h
    decide

/-- Short of `Between` the phases that follow do not depend on `CANCEL` (R274). -/
theorem phasesAfter_congr {p : Phase} (hp : p ≠ .between) (c d : Bool) : phasesAfter c p = phasesAfter d p := by
  cases p
  case between => exact absurd rfl hp
  all_goals rfl

/-- A run comes to a phase with `stop`, if every phase before one brings it nearer. -/
theorem reaches_stop {c : Bool} {stop : Phase → Prop} (hhalted : stop .halted)
    (hcloser : ∀ p q, ¬ stop p → q ∈ phasesAfter c p → q.toGo < p.toGo ∧ q ≠ .idle) (hi : Inv s)
    (hidle : s.phase ≠ .idle) (hc : c = true → s.cancel = true) : Reaches s fun t => Inv t ∧ stop t.phase := by
  induction hd : s.phase.toGo using Nat.strong_induction_on generalizing s with
  | _ d ih =>
    by_cases hstop : stop s.phase
    · exact .here ⟨hi, hstop⟩
    · have hb : s.busy = true := busy_iff.2 ⟨hidle, fun h => hstop (h ▸ hhalted)⟩
      refine (reaches_next_phase hi hb).bind fun t ⟨hit, hcancel, hnext⟩ => ?_
      obtain ⟨hlt, hidle'⟩ := hcloser _ _ hstop (mem_phasesAfter hc hnext)
      exact ih _ (hd ▸ hlt) hit hidle' (hcancel ∘ hc) rfl

/-- In `Between` and in `Halted` no worker has a step and no read is in progress. -/
theorem Inv.atRest_of_stop (hi : Inv s) (hp : s.phase = .between ∨ s.phase = .halted) (k : AxisIx) : AtRest (s.axis k) := by
  obtain hp | hp := hp
  · exact (hi.atRest_of_tick hp (by decide)).2 k
  · exact hi.rest_of_not_busy (not_busy_iff.2 (.inr hp)) k

end Sys2Proof.Machine

namespace Sys2Proof.Proofs

open Sys2Proof Sys2Proof.Machine

/-- Settles O60: every turn comes (`reaches_turn`), every phase of a run ends (`reaches_next_phase`), and the phases that follow
come nearer to `Between`, and with `CANCEL` set to `Halted`. -/
theorem runsGetOn : Obligations.RunsGetOn := by
  unfold Obligations.RunsGetOn
  refine fun s hi => ⟨fun m => ?turns, fun hb => ?ends, fun hp => ?between, fun hb hc => ?cancelled⟩
  case turns =>
    have hstay : Stays (fun _ => True) (fun _ => False) := fun _ _ _ _ _ => .inl trivial
    refine (reaches_turn m hstay hi trivial).mono ?_
    rintro t (⟨-, -, hturn⟩ | h)
    · exact ⟨hturn.start, hturn.drawEvent.1⟩
    · exact h.elim
  case ends =>
    have hcloser (p q : Phase) (hp : ¬(p = .between ∨ p = .halted)) (h : q ∈ phasesAfter false p) :
        q.toGo < p.toGo ∧ q ≠ .idle :=
      toGo_lt_of_cancelled (phasesAfter_congr (fun hb => hp (.inl hb)) false true ▸ h)
    refine (reaches_stop (stop := fun p => p = .between ∨ p = .halted) (.inr rfl) hcloser hi (busy_iff.1 hb).1 nofun).mono ?_
    rintro t ⟨hit, hp⟩
    exact ⟨hp, fun k => ⟨(hit.atRest_of_stop hp k).wstep, (hit.atRest_of_stop hp k).wait⟩⟩
  case between =>
    refine (reaches_next_phase hi (by simp [State.busy, hp])).mono ?_
    rintro t ⟨-, -, hnext⟩
    have hnext := mem_phasesAfter (c := false) nofun hnext
    simpa [hp, phasesAfter] using hnext
  case cancelled =>
    have hcloser (p q : Phase) (_ : ¬p = .halted) (h : q ∈ phasesAfter true p) := toGo_lt_of_cancelled h
    exact (reaches_stop (stop := (· = .halted)) rfl hcloser hi (busy_iff.1 hb).1 fun _ => hc).mono fun t ht => ht.2

end Sys2Proof.Proofs
end
